-- ==== Sys2Proof/Word.lean ====
section
/-! DEFINITION. The word types of the block (00_scope.md R16: every value is unsigned). -/

namespace Sys2Proof

/-- One byte: a transport byte, an operand byte, an opcode tag, a pin index. -/
abbrev Byte := BitVec 8

/-- A 16-bit register or operand value. -/
abbrev Word16 := BitVec 16

/-- A 32-bit register (MS_COUNT, MS_TARGET, TB_MS). -/
abbrev Word32 := BitVec 32

/-- A 40-bit step record (30_encoding.md R80). -/
abbrev Rec := BitVec 40

end Sys2Proof
end

