-- ==== Sys2Proof/Config.lean ====
section
/-! DEFINITION. The parameters of 00_scope.md R15, the free values, and the moves of the agents
(the interleaving of R7 and R68 as data). -/

namespace Sys2Proof

/-- STEP_CAP (R15): steps the Program Store holds. -/
abbrev Config.stepCap : Nat := 256

/-- LOOP_CAP (R15): slots of the loop-slot table. -/
abbrev Config.loopCap : Nat := 10

/-- OPERAND_BYTES (R15): the fixed stride of the operand arena. -/
abbrev Config.operandBytes : Nat := 4

/-- CG_OOR (R15): what CharGoto does with a byte that is no stored step index. -/
inductive CgOor where
  | endPass
  | fault
  deriving DecidableEq, Repr, Inhabited

/-- EOL_BYTES (R15): a byte string of length 0..2. -/
inductive Eol where
  | empty
  | one (b : Byte)
  | two (b c : Byte)
  deriving DecidableEq, Repr, Inhabited

/-- The byte string an `Eol` stands for. -/
def Eol.bytes : Eol → List Byte
  | .empty => []
  | .one b => [b]
  | .two b c => [b, c]

/-- One row of the Pin Table (R15: PIN_CAPS, PWM_MAX, ANALOG). PIN_NAME is the front-end's alone. -/
structure PinDesc where
  /-- PWM_MAX of a PWM-capable pin; none where the pin has no PWM. -/
  pwmMax : Option Word16
  /-- The pin has an analog channel. -/
  analog : Bool
  deriving DecidableEq, Repr, Inhabited

/-- The parameters a model takes as arguments (R15). They stand in State and no step changes them
(log 4). -/
structure Params where
  /-- TICKS_PER_US. -/
  ticksPerUs : Nat
  /-- SVC_PERIOD_TICKS. -/
  svcPeriod : Word16
  /-- CG_OOR. -/
  cgOor : CgOor
  /-- QUIT_BYTE. -/
  quitByte : Byte
  /-- EOL_BYTES. -/
  eol : Eol
  /-- ADC_BITS. -/
  adcBits : Nat
  /-- The Pin Table; NPINS is its length. -/
  pins : List PinDesc
  deriving DecidableEq, Repr

/-- TICKS_PER_MS = 1000 × TICKS_PER_US (R15), as the 16-bit compare value. -/
def Params.ticksPerMs (c : Params) : Word16 := BitVec.ofNat 16 (1000 * c.ticksPerUs)

/-- The parameter values R15 admits: TICKS_PER_MS and SVC_PERIOD_TICKS are positive and fit the 16-bit
counters, ADC_BITS is 1..16, pin indices fit one byte. -/
def Params.wf (c : Params) : Bool :=
  decide (1 ≤ c.ticksPerUs) && decide (c.ticksPerUs ≤ 65) && decide (1 ≤ c.svcPeriod.toNat) &&
    decide (1 ≤ c.adcBits) && decide (c.adcBits ≤ 16) && decide (c.pins.length ≤ 256)

/-- QUIT_BYTE is OPEN (R15, 92_eei_decisions.md D20): no value is assumed (log 5). -/
opaque Config.quitByte : Byte

/-- EOL_BYTES is OPEN (R15, D23): no value is assumed (log 5). -/
opaque Config.eol : Eol

/-- ADC_BITS less one; ADC_BITS is OPEN (R15, D32), 1..16: no value is assumed (log 5). -/
opaque Config.adcBitsLessOne : Fin 16

/-- The parameters the machine starts with: the default of every parameter that has one, an uninterpreted
constant for the OPEN ones, and 256 pins with every capability (log 6). -/
def Params.atReset : Params where
  ticksPerUs := 2
  svcPeriod := 30000#16
  cgOor := .endPass
  quitByte := Config.quitByte
  eol := Config.eol
  adcBits := Config.adcBitsLessOne.val + 1
  pins := List.replicate 256 { pwmMax := some 65535#16, analog := true }

/-- A command of the command port (00_scope.md R8). -/
inductive Command where
  /-- PROGRAM. -/
  | program
  /-- END. -/
  | finish
  /-- SUBMIT(rec, count). -/
  | submit (rec : Rec) (count : Word16)
  /-- RUN(n). -/
  | run (n : Word16)
  deriving DecidableEq, Repr, Inhabited

/-- One atomic transition of one agent (R7): which agent moves, and what the environment's move carries. -/
inductive Move where
  /-- One step of the FSM. -/
  | fsm
  /-- One tick of the timer agent (R14). -/
  | tick
  /-- The host's byte arrives in RXQ (R9). -/
  | rx (b : Byte)
  /-- A pin changes level (R12). -/
  | pinLevel (p : Byte) (level : Bool)
  /-- The transport sets tx_ready (R10). -/
  | txReady (ready : Bool)
  /-- The conversion in progress ends with this raw result (R13). -/
  | adcFinish (raw : Word16)
  /-- The front-end offers a command on the port (R8). -/
  | issue (c : Command)
  /-- The front-end takes a byte of RXQ as its line input (70_reset_and_hazards.md R255). -/
  | frontEndPop
  /-- The reset input is asserted (R240). -/
  | reset
  deriving DecidableEq, Repr, Inhabited

/-- The moves the agents make between one turn of an agent and the next, once State lists no more: any finite
number in any order (R7, R68), so they are a free value (log 1). -/
opaque Config.freeBurst : Nat → List Move

/-- The raw result of a conversion that ends at the converter's turn (R13): a free value (log 1). -/
opaque Config.freeResult : Nat → Word16

end Sys2Proof
end

