-- ==== Sys2Proof/Syntax.lean ====
section
/-! DEFINITION. The instruction set: one constructor per row of spec/opcode_table.json (30_encoding.md R88). -/

namespace Sys2Proof

/-- The 23 opcodes with the operands their layout names (R83–R88). -/
inductive Instr where
  /-- 0x00 `wh p`, layout P. -/
  | waitHigh (pin : Byte)
  /-- 0x01 `wl p`, layout P. -/
  | waitLow (pin : Byte)
  /-- 0x02 `wc p`, layout P. -/
  | waitChange (pin : Byte)
  /-- 0x03 `rh p` (alias `uh`), layout P. -/
  | rawWaitHigh (pin : Byte)
  /-- 0x04 `rl p` (alias `ul`), layout P. -/
  | rawWaitLow (pin : Byte)
  /-- 0x05 `rc p` (alias `uc`), layout P. -/
  | rawWaitChange (pin : Byte)
  /-- 0x06 `wt n`, layout V; the stored value is in ticks. -/
  | setWaitTime (v : Word16)
  /-- 0x07 `dm n`, layout V; milliseconds. -/
  | delayMs (v : Word16)
  /-- 0x08 `du n`, layout V; the stored value is in ticks. -/
  | delayUs (v : Word16)
  /-- 0x09 `tb`, layout N. -/
  | timerBegin
  /-- 0x0A `te`, layout N. -/
  | timerEnd
  /-- 0x0B `pm p n`, layout PV. -/
  | setPwm (pin : Byte) (v : Word16)
  /-- 0x0C `sh p`, layout P. -/
  | setHigh (pin : Byte)
  /-- 0x0D `sl p`, layout P. -/
  | setLow (pin : Byte)
  /-- 0x0E `st p`, layout P. -/
  | setTristate (pin : Byte)
  /-- 0x0F `rd p`, layout P. -/
  | readDigital (pin : Byte)
  /-- 0x10 `ra p`, layout P. -/
  | readAnalog (pin : Byte)
  /-- 0x11 `ct n`, layout B. -/
  | charTransmit (byte : Byte)
  /-- 0x12 `cr`, layout N. -/
  | charReceive
  /-- 0x13 `cg`, layout N. -/
  | charGoto
  /-- 0x14 `lo t n`, layout L; the slot byte is written by the store at append (R87, R92). -/
  | loop (target slot : Byte)
  /-- 0x15 `go t`, layout G. -/
  | goto (target : Byte)
  /-- 0x16 `no`, layout N. -/
  | noop
  deriving DecidableEq, Repr, Inhabited

/-- The opcode tag of an instruction (R88). -/
def Instr.tag : Instr → Byte
  | .waitHigh _ => 0x00#8
  | .waitLow _ => 0x01#8
  | .waitChange _ => 0x02#8
  | .rawWaitHigh _ => 0x03#8
  | .rawWaitLow _ => 0x04#8
  | .rawWaitChange _ => 0x05#8
  | .setWaitTime _ => 0x06#8
  | .delayMs _ => 0x07#8
  | .delayUs _ => 0x08#8
  | .timerBegin => 0x09#8
  | .timerEnd => 0x0A#8
  | .setPwm _ _ => 0x0B#8
  | .setHigh _ => 0x0C#8
  | .setLow _ => 0x0D#8
  | .setTristate _ => 0x0E#8
  | .readDigital _ => 0x0F#8
  | .readAnalog _ => 0x10#8
  | .charTransmit _ => 0x11#8
  | .charReceive => 0x12#8
  | .charGoto => 0x13#8
  | .loop _ _ => 0x14#8
  | .goto _ => 0x15#8
  | .noop => 0x16#8

end Sys2Proof
end

