-- ==== Sys2Proof/Machine/State.lean ====
section
/-! DEFINITION. The state of the block (10_state.md), its storage (20_memory.md) and the environment state of R52,
as plain data; the reasons a step can stop; the state after reset (R55). -/

namespace Sys2Proof.Machine

/-- Register FSM (R21, R25). -/
inductive FsmState where
  | idle
  | runHead
  | opWait
  | fault
  deriving DecidableEq, Repr

/-- Register CTX (R21): whether the step in progress belongs to a run or to an immediate dispatch. -/
inductive Ctx where
  | run
  | imm
  deriving DecidableEq, Repr

/-- Register OPW (R21): the wait an opcode in progress is in. -/
inductive Opw where
  | none
  | level
  | settle
  | rsettle
  | dms
  | dus
  | cr
  | cg
  | adc
  | tx
  deriving DecidableEq, Repr

/-- Register EXEC_MODE (R21, R26). -/
inductive ExecMode where
  | immediate
  | recording
  deriving DecidableEq, Repr

/-- Register TMODE (R21, R41): the owner of the shared counter. -/
inductive TMode where
  | ms
  | os
  deriving DecidableEq, Repr

/-- Register FAULT_KIND (R21, R209). -/
inductive FaultKind where
  | illegalTag
  | badSlot
  | badTarget
  deriving DecidableEq, Repr

/-- The drive of a pin (R12). -/
inductive PinMode where
  | high
  | low
  | tristate
  deriving DecidableEq, Repr

/-- A result code of the response channel (R203). -/
inductive Response where
  | ok
  | noRoom
  | badOpcode
  /-- DONE with the LAST_CANCELLED bit. -/
  | done (cancelled : Bool)
  deriving DecidableEq, Repr

/-- An output event the environment records in order (R8, R10–R13, R67). -/
inductive OutEvent where
  | txPush (b : Byte)
  | pinDrive (p : Byte) (m : PinMode)
  | pwmWrite (p : Byte) (v : Word16)
  | adcStart (p : Byte)
  | service
  | resp (r : Response)
  deriving DecidableEq, Repr

/-- The ADC's conversion state and result (R13, R52). -/
inductive AdcState where
  | idle
  | converting (p : Byte)
  | done (result : Word16)
  deriving DecidableEq, Repr

/-- Storage as (address, byte) pairs, addresses strictly rising; an unlisted address holds no value
(R54, log 8). -/
abbrev Memory := List Host.Cell

/-- One entry of the loop-slot table (R38). -/
structure LoopSlot where
  /-- LOOP_INIT. -/
  init : Word16
  /-- LOOP_CUR. -/
  cur : Word16
  /-- LOOP_ACT. -/
  act : Bool
  deriving DecidableEq, Repr

/-- The sequencer's registers (R21). -/
structure Seq where
  fsm : FsmState
  ctx : Ctx
  opw : Opw
  execMode : ExecMode
  pc : BitVec 9
  cur : BitVec 9
  ir : Rec
  iter : Word16
  lvl : Bool
  deb : Bool
  outq : List Byte
  cancel : Bool
  watchQuit : Bool
  lastCancelled : Bool
  wt : Word16
  tbMs : Word32
  tbPh : Word16
  faultKind : FaultKind
  deriving DecidableEq, Repr

/-- The Program Store with its length counters (R28, R61, R62) and the loop-slot table (R38). -/
structure Store where
  stepCount : BitVec 9
  loopCount : BitVec 4
  opc : Memory
  arena : Memory
  slots : Vector LoopSlot 10
  deriving DecidableEq, Repr

/-- The timer arbiter's registers (R41–R45). -/
structure Timer where
  tmode : TMode
  cnt : Word16
  cmp : Word16
  osDone : Bool
  phSave : Word16
  msCount : Word32
  msTarget : Word32
  tick : Bool
  svcEn : Bool
  svcCnt : Word16
  deriving DecidableEq, Repr

/-- The environment state a model carries (R52). -/
structure Env where
  /-- RXQ, oldest byte first (R9). -/
  rxq : List Byte
  /-- The current level of every pin number (R12). -/
  levels : Vector Bool 256
  /-- tx_ready() (R10). -/
  txReady : Bool
  adc : AdcState
  /-- The command the front-end offers on the port (R8). -/
  port : Option Command
  /-- The output events so far, oldest first (log 18). -/
  trace : List OutEvent
  deriving DecidableEq, Repr

/-- Which agent moves next: the model's own fields (log 1, log 2, log 3). -/
structure Sched where
  /-- The agents' moves still to be made, next first; past its end come free bursts, each closed by one
  agent's turn. -/
  moves : List Move
  /-- The number of the next free burst and turn. -/
  freeIdx : Nat
  /-- A tick has passed in OP_WAIT since the last FSM step (R128). -/
  pollOwed : Bool
  deriving DecidableEq, Repr

/-- The whole machine. -/
structure State where
  seq : Seq
  store : Store
  timer : Timer
  env : Env
  sched : Sched
  /-- The parameters of R15; no step changes them (log 4). -/
  cfg : Params
  deriving DecidableEq, Repr

/-- Why the model stops. Every stop is safe: no claim about a stopped run can be proved from what follows it. -/
inductive Fault where
  /-- A pin or ADC interface call on a pin index the Pin Table does not have (R70). Raised by every opcode and
  poll that calls the pin or ADC interface. Safe. -/
  | noSuchPin (p : Byte)
  /-- pwm_write on a pin without PWM (R70). Raised by SetPwm. Safe. -/
  | notPwmCapable (p : Byte)
  /-- adc_start on a pin without an analog channel (R70). Raised by ReadAnalog. Safe. -/
  | notAnalogCapable (p : Byte)
  /-- A fetch of a step whose bytes were never written (R54). Raised by the head step, in states no run
  reaches. Safe. -/
  | unwrittenStep (index : Nat)
  /-- An access to a loop slot outside the table (R38). Raised by Loop and append, in states no run reaches.
  Safe. -/
  | noSuchSlot (slot : Nat)
  /-- A TX poll with nothing to transmit (R30, R123). Raised by the TX poll, in states no run reaches. Safe. -/
  | emptyOutput
  /-- An OP_WAIT step with OPW = NONE (R30, R120). Raised by the poll, in states no run reaches. Safe. -/
  | noWait
  deriving DecidableEq, Repr

/-- Why the model has no meaning for an instruction. Safe. -/
inductive Refusal where
  /-- Raised by an arm of exec whose instruction has no meaning yet. Safe. -/
  | notModelled (mnemonic : String)
  deriving DecidableEq, Repr

/-- The outcome of one transition. -/
abbrev Result := Host.Outcome State Fault Refusal

/-- Replace the sequencer's registers. -/
def State.withSeq (s : State) (q : Seq) : State := { s with seq := q }

/-- Replace the store. -/
def State.withStore (s : State) (m : Store) : State := { s with store := m }

/-- Replace the timer's registers. -/
def State.withTimer (s : State) (t : Timer) : State := { s with timer := t }

/-- Replace the environment state. -/
def State.withEnv (s : State) (e : Env) : State := { s with env := e }

/-- Replace the schedule. -/
def State.withSched (s : State) (d : Sched) : State := { s with sched := d }

/-- The sequencer's registers after reset (R55); IR is a value the model names (log 7). -/
def Seq.reset : Seq where
  fsm := .idle
  ctx := .run
  opw := .none
  execMode := .immediate
  pc := 0#9
  cur := 0#9
  ir := 0#40
  iter := 0#16
  lvl := false
  deb := false
  outq := []
  cancel := false
  watchQuit := false
  lastCancelled := false
  wt := 0#16
  tbMs := 0#32
  tbPh := 0#16
  faultKind := .illegalTag

/-- The store after reset (R55): nothing stored; LOOP_INIT and LOOP_CUR are values the model names (log 7). -/
def Store.reset : Store where
  stepCount := 0#9
  loopCount := 0#4
  opc := []
  arena := []
  slots := Vector.replicate 10 { init := 0#16, cur := 0#16, act := false }

/-- The timer after reset (R55); CMP resets to TICKS_PER_MS. -/
def Timer.reset (ticksPerMs : Word16) : Timer where
  tmode := .ms
  cnt := 0#16
  cmp := ticksPerMs
  osDone := false
  phSave := 0#16
  msCount := 0#32
  msTarget := 0#32
  tick := false
  svcEn := true
  svcCnt := 0#16

/-- The environment at the start (log 9): R240 leaves it alone, so reset gives it no value. -/
def Env.start : Env where
  rxq := []
  levels := Vector.replicate 256 false
  txReady := true
  adc := .idle
  port := none
  trace := []

/-- No move listed (log 1). -/
def Sched.start : Sched where
  moves := []
  freeIdx := 0
  pollOwed := false

/-- The machine right after reset (R55, R241). -/
def State.reset : State where
  seq := Seq.reset
  store := Store.reset
  timer := Timer.reset Params.atReset.ticksPerMs
  env := Env.start
  sched := Sched.start
  cfg := Params.atReset

end Sys2Proof.Machine
end

