-- ==== Sys2Proof/Machine/Flags.lean ====
section
/-! DEFINITION. Every flag computation of the block (R31–R36: there are no condition codes), the increments with
their wrap laws (43_delay_timer_ops.md R158), and the encodings of the register values (R21, R203). -/

namespace Sys2Proof.Machine

/-- DEB (R143): 1 only when the opcode is debounced and WT ≠ 0. -/
def debFlag (debounced : Bool) (wt : Word16) : Bool := debounced && decide (wt ≠ 0#16)

/-- CANCEL after the block pops byte b (R139, R181, R190): set by QUIT_BYTE, never cleared. -/
def cancelAfter (quitByte : Byte) (cancel : Bool) (b : Byte) : Bool := cancel || decide (b = quitByte)

/-- Whether the shared counter's next value meets its compare (R131: CNT + 1 == CMP). -/
def meetsCompare (cnt cmp : Word16) : Bool := decide (cnt + 1#16 = cmp)

/-- TICK after MS_COUNT has become msCount (R134): set on reaching MS_TARGET, otherwise kept. -/
def tickAfter (tick : Bool) (msCount msTarget : Word32) : Bool := tick || decide (msCount = msTarget)

/-- FSM as a number (R21). -/
def FsmState.code : FsmState → BitVec 2
  | .idle => 0
  | .runHead => 1
  | .opWait => 2
  | .fault => 3

/-- CTX as a number (R21). -/
def Ctx.code : Ctx → BitVec 1
  | .run => 0
  | .imm => 1

/-- OPW as a number (R21). -/
def Opw.code : Opw → BitVec 4
  | .none => 0
  | .level => 1
  | .settle => 2
  | .rsettle => 3
  | .dms => 4
  | .dus => 5
  | .cr => 6
  | .cg => 7
  | .adc => 8
  | .tx => 9

/-- EXEC_MODE as a number (R21). -/
def ExecMode.code : ExecMode → BitVec 1
  | .immediate => 0
  | .recording => 1

/-- TMODE as a number (R21). -/
def TMode.code : TMode → BitVec 1
  | .ms => 0
  | .os => 1

/-- FAULT_KIND as a number (R21). -/
def FaultKind.code : FaultKind → BitVec 2
  | .illegalTag => 0
  | .badSlot => 1
  | .badTarget => 2

/-- The result code of a response (R203). -/
def Response.code : Response → Nat
  | .ok => 0
  | .noRoom => 1
  | .badOpcode => 2
  | .done _ => 3

end Sys2Proof.Machine
end

