-- ==== Sys2Proof/Decode.lean ====
section
/-! DEFINITION. Decoding a 40-bit step record (30_encoding.md R80–R91) and encoding an instruction. -/

namespace Sys2Proof

/-- TAG = rec[39:32] (R82). -/
def recTag (r : Rec) : Byte := r.extractLsb' 32 8

/-- OB0 = rec[7:0] (R82): the pin, byte or target of layouts P, PV, B, L, G. -/
def recOb0 (r : Rec) : Byte := r.extractLsb' 0 8

/-- OB1 = rec[15:8] (R82): the slot of layout L. -/
def recOb1 (r : Rec) : Byte := r.extractLsb' 8 8

/-- OB2 = rec[23:16] (R82). -/
def recOb2 (r : Rec) : Byte := r.extractLsb' 16 8

/-- OB3 = rec[31:24] (R82). -/
def recOb3 (r : Rec) : Byte := r.extractLsb' 24 8

/-- The value of layout V: rec[15:0] (R85). -/
def recV (r : Rec) : Word16 := r.extractLsb' 0 16

/-- The value of layout PV: rec[23:8] (R86). -/
def recPv (r : Rec) : Word16 := r.extractLsb' 8 16

/-- A record from its tag and operand bytes, most significant first (R82). -/
def mkRec (tag ob3 ob2 ob1 ob0 : Byte) : Rec := tag ++ ob3 ++ ob2 ++ ob1 ++ ob0

/-- What a record decodes to: an instruction, or a tag that spells no opcode (R90). -/
inductive Decoded where
  | instr (i : Instr)
  | reserved (tag : Byte)
  deriving DecidableEq, Repr

/-- The tag alone selects the opcode and its layout (R81); tags 0x17 to 0xFF are reserved (R90). -/
def decode (r : Rec) : Decoded :=
  match (recTag r).toNat with
  | 0x00 => .instr (.waitHigh (recOb0 r))
  | 0x01 => .instr (.waitLow (recOb0 r))
  | 0x02 => .instr (.waitChange (recOb0 r))
  | 0x03 => .instr (.rawWaitHigh (recOb0 r))
  | 0x04 => .instr (.rawWaitLow (recOb0 r))
  | 0x05 => .instr (.rawWaitChange (recOb0 r))
  | 0x06 => .instr (.setWaitTime (recV r))
  | 0x07 => .instr (.delayMs (recV r))
  | 0x08 => .instr (.delayUs (recV r))
  | 0x09 => .instr .timerBegin
  | 0x0A => .instr .timerEnd
  | 0x0B => .instr (.setPwm (recOb0 r) (recPv r))
  | 0x0C => .instr (.setHigh (recOb0 r))
  | 0x0D => .instr (.setLow (recOb0 r))
  | 0x0E => .instr (.setTristate (recOb0 r))
  | 0x0F => .instr (.readDigital (recOb0 r))
  | 0x10 => .instr (.readAnalog (recOb0 r))
  | 0x11 => .instr (.charTransmit (recOb0 r))
  | 0x12 => .instr .charReceive
  | 0x13 => .instr .charGoto
  | 0x14 => .instr (.loop (recOb0 r) (recOb1 r))
  | 0x15 => .instr (.goto (recOb0 r))
  | 0x16 => .instr .noop
  | _ => .reserved (recTag r)

/-- The tag spells an opcode (R90). -/
def tagDefined (tag : Byte) : Bool := decide (tag.toNat ≤ 0x16)

/-- The low byte of a 16-bit operand (R64). -/
def loByte (v : Word16) : Byte := v.extractLsb' 0 8

/-- The high byte of a 16-bit operand (R64). -/
def hiByte (v : Word16) : Byte := v.extractLsb' 8 8

/-- The record of an instruction in layout N, P (and B, G), V, PV or L; ignored bits are written as 0
(R84–R88, R95). -/
def encode (i : Instr) : Rec :=
  match i with
  | .waitHigh p => mkRec i.tag 0 0 0 p
  | .waitLow p => mkRec i.tag 0 0 0 p
  | .waitChange p => mkRec i.tag 0 0 0 p
  | .rawWaitHigh p => mkRec i.tag 0 0 0 p
  | .rawWaitLow p => mkRec i.tag 0 0 0 p
  | .rawWaitChange p => mkRec i.tag 0 0 0 p
  | .setWaitTime v => mkRec i.tag 0 0 (hiByte v) (loByte v)
  | .delayMs v => mkRec i.tag 0 0 (hiByte v) (loByte v)
  | .delayUs v => mkRec i.tag 0 0 (hiByte v) (loByte v)
  | .timerBegin => mkRec i.tag 0 0 0 0
  | .timerEnd => mkRec i.tag 0 0 0 0
  | .setPwm p v => mkRec i.tag 0 (hiByte v) (loByte v) p
  | .setHigh p => mkRec i.tag 0 0 0 p
  | .setLow p => mkRec i.tag 0 0 0 p
  | .setTristate p => mkRec i.tag 0 0 0 p
  | .readDigital p => mkRec i.tag 0 0 0 p
  | .readAnalog p => mkRec i.tag 0 0 0 p
  | .charTransmit b => mkRec i.tag 0 0 0 b
  | .charReceive => mkRec i.tag 0 0 0 0
  | .charGoto => mkRec i.tag 0 0 0 0
  | .loop t k => mkRec i.tag 0 0 k t
  | .goto t => mkRec i.tag 0 0 0 t
  | .noop => mkRec i.tag 0 0 0 0

/-- The record bits the layout of a tag names, its tag included (R83–R87); the others are ignored. -/
def namedBits (tag : Byte) : Rec :=
  match tag.toNat with
  | 0x06 | 0x07 | 0x08 => 0xFF0000FFFF#40
  | 0x09 | 0x0A | 0x12 | 0x13 | 0x16 => 0xFF00000000#40
  | 0x0B => 0xFF00FFFFFF#40
  | 0x14 => 0xFF0000FFFF#40
  | _ => 0xFF000000FF#40

/-- The record of five bytes of one list, with the bytes left over. DESIGN CHOICE (log 33): the order OB0, OB1,
OB2, OB3, TAG is the model's; the spec keeps tags and operand bytes in two arrays and lays out no byte list. -/
def recOfBytes : List Byte → Option (Rec × List Byte)
  | ob0 :: ob1 :: ob2 :: ob3 :: tag :: rest => some (mkRec tag ob3 ob2 ob1 ob0, rest)
  | _ => none

/-- Decoding a byte list in the order of `recOfBytes` (log 33): the first record and the bytes left over; none
where fewer than five bytes stand. -/
def decodeBytes (bs : List Byte) : Option (Decoded × List Byte) :=
  (recOfBytes bs).map fun (r, rest) => (decode r, rest)

/-- The instruction the decoder reads from an opcode-table word: the table numbers the 40 bits as the record
(bit 0 least significant), and every bit above nbits is 0 (log 24). -/
def decodeTableWord (nbits w : Nat) : Option Instr :=
  if w % 2 ^ nbits < 2 ^ 40 then
    match decode (BitVec.ofNat 40 (w % 2 ^ nbits)) with
    | .instr i => some i
    | .reserved _ => none
  else none

end Sys2Proof
end

