-- ==== Sys2Proof/WellFormed.lean ====
section
/-! DEFINITION. The checks the front-end makes before it submits a step (30_encoding.md R95, R97;
70_reset_and_hazards.md R255), and the slot numbers a store can write. They are duties of the environment:
the block itself makes none of them (20_memory.md R70). -/

namespace Sys2Proof

/-- Pin p is a row of the Pin Table (R70: p < NPINS). -/
def Params.hasPin (c : Params) (p : Byte) : Bool := (c.pins[p.toNat]?).isSome

/-- Pin p is PWM-capable (R97). -/
def Params.hasPwm (c : Params) (p : Byte) : Bool :=
  match c.pins[p.toNat]? with
  | some d => d.pwmMax.isSome
  | none => false

/-- The duty v is at most PWM_MAX(p) (R95). -/
def Params.pwmInRange (c : Params) (p : Byte) (v : Word16) : Bool :=
  match c.pins[p.toNat]? with
  | some d => match d.pwmMax with
    | some m => decide (v.toNat ≤ m.toNat)
    | none => false
  | none => false

/-- Pin p has an analog channel (R97). -/
def Params.hasAnalog (c : Params) (p : Byte) : Bool :=
  match c.pins[p.toNat]? with
  | some d => d.analog
  | none => false

/-- A value the front-end has doubled (R95: `wt` and `du` store 2n with n ≤ 32767). -/
def doubled (v : Word16) : Bool := decide (v.toNat % 2 = 0)

/-- The pin duty of the front-end (R95, R97): the pin exists and has the capability its opcode needs. With it no
pin or ADC interface call is undefined (R70). -/
def Instr.pinsOk (c : Params) : Instr → Bool
  | .waitHigh p => c.hasPin p
  | .waitLow p => c.hasPin p
  | .waitChange p => c.hasPin p
  | .rawWaitHigh p => c.hasPin p
  | .rawWaitLow p => c.hasPin p
  | .rawWaitChange p => c.hasPin p
  | .setWaitTime _ => true
  | .delayMs _ => true
  | .delayUs _ => true
  | .timerBegin => true
  | .timerEnd => true
  | .setPwm p _ => c.hasPwm p
  | .setHigh p => c.hasPin p
  | .setLow p => c.hasPin p
  | .setTristate p => c.hasPin p
  | .readDigital p => c.hasPin p
  | .readAnalog p => c.hasAnalog p
  | .charTransmit _ => true
  | .charReceive => true
  | .charGoto => true
  | .loop _ _ => true
  | .goto _ => true
  | .noop => true

/-- The value bounds: what the front-end's bounds leave (R95) and the slot numbers the store writes (R113). -/
def Instr.valuesOk (c : Params) : Instr → Bool
  | .waitHigh _ => true
  | .waitLow _ => true
  | .waitChange _ => true
  | .rawWaitHigh _ => true
  | .rawWaitLow _ => true
  | .rawWaitChange _ => true
  | .setWaitTime v => doubled v
  | .delayMs _ => true
  | .delayUs v => doubled v
  | .timerBegin => true
  | .timerEnd => true
  | .setPwm p v => c.pwmInRange p v
  | .setHigh _ => true
  | .setLow _ => true
  | .setTristate _ => true
  | .readDigital _ => true
  | .readAnalog _ => true
  | .charTransmit _ => true
  | .charReceive => true
  | .charGoto => true
  | .loop _ k => decide (k.toNat < Config.loopCap)
  | .goto _ => true
  | .noop => true

/-- The instruction can stand in a store that a front-end keeping its duties has filled. -/
def Instr.wf (c : Params) (i : Instr) : Bool := i.pinsOk c && i.valuesOk c

end Sys2Proof
end

