-- ==== Sys2Proof/Machine/Operands.lean ====
section
/-! DEFINITION. The operands a step reads: its record's fields from IR (R29), the pin and ADC interfaces
(R12, R13), and the digit strings of the output (40_engine.md R124). -/

namespace Sys2Proof.Machine

/-- The pin of the step in progress, IR[7:0] (R84): the waits and `rd` read it at every poll. -/
def irPin (s : State) : Byte := recOb0 s.seq.ir

/-- A target or received byte zero-extended into PC (R17: pc <- target). -/
def pcOf (target : Byte) : BitVec 9 := target.setWidth 9

/-- pin_read(p) (R12): the current level; no meaning for a pin the Pin Table does not have (R70). -/
def pinRead (p : Byte) (s : State) : Option Bool :=
  if s.cfg.hasPin p then some (s.env.levels[p.toNat]'p.isLt) else none

/-- adc_done() and adc_result() (R13): the result once the conversion has ended. -/
def adcResult (s : State) : Option Word16 :=
  match s.env.adc with
  | .done r => some r
  | .idle => none
  | .converting _ => none

/-- An ADC result is an ADC_BITS-bit value zero-extended to 16 bits (R13). -/
def adcTrim (adcBits : Nat) (raw : Word16) : Word16 := BitVec.ofNat 16 (raw.toNat % 2 ^ adcBits)

/-- The ASCII byte of a decimal digit (R124). -/
def digitByte (d : Nat) : Byte := BitVec.ofNat 8 (0x30 + d)

/-- The last n decimal digits of v, without leading zeros, most significant first. -/
def decDigits : Nat → Nat → List Byte
  | 0, _ => []
  | n + 1, v => if v < 10 then [digitByte v] else decDigits n (v / 10) ++ [digitByte (v % 10)]

/-- dec(v) (R124); every value the block reports is below 10^10. -/
def dec (v : Nat) : List Byte := decDigits 10 v

/-- The digit byte of `rd`: 0x30 + level (R174). -/
def levelByte (level : Bool) : Byte := digitByte level.toNat

/-- The microseconds TimerEnd reports, modulo 2^32 (R156). -/
def elapsedUs (ticksPerUs : Nat) (msCount : Word32) (cnt : Word16) (tbMs : Word32) (tbPh : Word16) : Word32 :=
  (msCount - tbMs) * 1000#32 + BitVec.ofNat 32 (cnt.toNat / ticksPerUs)
    - BitVec.ofNat 32 (tbPh.toNat / ticksPerUs)

/-- MS_TARGET of a DelayMs with operand v: MS_COUNT + zext_32(v) + 1 modulo 2^32 (R153). -/
def delayTarget (msCount : Word32) (v : Word16) : Word32 := msCount + v.setWidth 32 + 1#32

end Sys2Proof.Machine
end

