-- ==== Sys2Proof/Machine/Ops.lean ====
section
/-! DEFINITION. The shared operations over storage, registers, timer and interfaces, and taking a fault (R209) with
the reset that alone leaves it (R127, R240). -/

namespace Sys2Proof.Machine

/-! ### Storage (20_memory.md) -/

/-- The canonical form: addresses strictly rising, so equal contents are equal lists. An unlisted address
holds no value, so no cell can equal it. -/
abbrev Memory.wf (m : Memory) : Prop := m.Pairwise fun a b => a.1 < b.1

/-- The byte at an address; none where nothing was written (R54). -/
def Memory.read : Memory → Nat → Option Byte
  | [], _ => none
  | (k, v) :: m, a => if a = k then some v else Memory.read m a

/-- Write one byte, keeping the canonical form. -/
def Memory.write : Memory → Nat → Byte → Memory
  | [], a, b => [(a, b)]
  | (k, v) :: m, a, b =>
    if a < k then (a, b) :: (k, v) :: m
    else if a = k then (a, b) :: m
    else (k, v) :: Memory.write m a b

/-- The arena address of operand byte k of step i (R61, R62: the fixed stride). -/
def arenaAddr (i k : Nat) : Nat := Config.operandBytes * i + k

/-- StoreRead(i) (R62); none where a byte of the step was never written. -/
def storeRead (m : Store) (i : Nat) : Option Rec := do
  let tag ← m.opc.read i
  let ob3 ← m.arena.read (arenaAddr i 3)
  let ob2 ← m.arena.read (arenaAddr i 2)
  let ob1 ← m.arena.read (arenaAddr i 1)
  let ob0 ← m.arena.read (arenaAddr i 0)
  return mkRec tag ob3 ob2 ob1 ob0

/-- StoreWrite(i, rec) (R62). -/
def storeWrite (m : Store) (i : Nat) (r : Rec) : Store :=
  { m with
    opc := m.opc.write i (recTag r)
    arena := (((m.arena.write (arenaAddr i 0) (recOb0 r)).write (arenaAddr i 1) (recOb1 r)).write
      (arenaAddr i 2) (recOb2 r)).write (arenaAddr i 3) (recOb3 r) }

/-- Every LOOP_ACT[s] <- 0 (R114, R115). -/
def clearActive (m : Store) : Store :=
  { m with slots := m.slots.map fun l => { l with act := false } }

/-! ### Output events and responses -/

/-- Record one output event (R67). -/
def emit (e : OutEvent) (s : State) : State :=
  s.withEnv { s.env with trace := s.env.trace ++ [e] }

/-- emit RESP(r) (R17). -/
def respond (r : Response) (s : State) : State := emit (.resp r) s

/-! ### Completion (40_engine.md R116, R121, R122) -/

/-- finish_run(c) (R116). -/
def finishRun (c : Bool) (s : State) : State :=
  respond (.done c) (s.withSeq
    { s.seq with watchQuit := false, lastCancelled := c, ctx := .run, fsm := .idle })

/-- finish_imm() (R122). -/
def finishImm (s : State) : State :=
  respond .ok (s.withSeq { s.seq with watchQuit := false, ctx := .run, fsm := .idle })

/-- complete() (R121). -/
def complete (s : State) : State :=
  match s.seq.ctx with
  | .run => s.withSeq { s.seq with opw := .none, fsm := .runHead }
  | .imm => finishImm (s.withSeq { s.seq with opw := .none })

/-- Enter a wait: OPW <- w, FSM <- OP_WAIT (R117). -/
def enterWait (w : Opw) (s : State) : State := s.withSeq { s.seq with opw := w, fsm := .opWait }

/-- emit_bytes(bs) (R123). -/
def emitBytes (bs : List Byte) (s : State) : State :=
  enterWait .tx (s.withSeq { s.seq with outq := bs })

/-- start_wait(level, debounced) (42_wait_ops.md R143). -/
def startWait (level debounced : Bool) (s : State) : State :=
  enterWait .level (s.withSeq { s.seq with lvl := level, deb := debFlag debounced s.seq.wt })

/-- PC <- zext_9(target) (R17). -/
def jump (target : Byte) (s : State) : State := s.withSeq { s.seq with pc := pcOf target }

/-! ### The fault state -/

/-- raise Fault(kind) (60_exceptions.md R209): the cause is recorded and the FSM stops; no response. -/
def raiseFault (kind : FaultKind) (s : State) : State :=
  s.withSeq { s.seq with faultKind := kind, fsm := .fault, opw := .none, watchQuit := false }

/-- The reset input (70_reset_and_hazards.md R240): every register, store entry and loop slot of the block as
R55 says; the environment's state and the parameters stay. It alone leaves FAULT (R127). -/
def blockReset (s : State) : State where
  seq := Seq.reset
  store := Store.reset
  timer := Timer.reset s.cfg.ticksPerMs
  env := s.env
  sched := { s.sched with pollOwed := false }
  cfg := s.cfg

/-! ### The timer primitives of the FSM (41_timing_engine.md R136, R137) -/

/-- arm_oneshot(w) on the timer's registers (R136). -/
def Timer.arm (w : Word16) (t : Timer) : Timer :=
  { t with
    phSave := match t.tmode with
      | .ms => t.cnt
      | .os => t.phSave
    tmode := .os
    cnt := 0#16
    cmp := w
    osDone := false }

/-- restore() on the timer's registers (R137). -/
def Timer.restore (ticksPerMs : Word16) (t : Timer) : Timer :=
  { t with tmode := .ms, cnt := t.phSave, cmp := ticksPerMs, osDone := false }

/-- arm_oneshot(w) (R136). -/
def armOneshot (w : Word16) (s : State) : State := s.withTimer (s.timer.arm w)

/-- restore() (R137). -/
def restore (s : State) : State := s.withTimer (s.timer.restore s.cfg.ticksPerMs)

/-! ### The pin, ADC and transport interfaces -/

/-- Sample pin p and go on with its level; a pin the Pin Table does not have stops the model (R70). -/
def withPinLevel (p : Byte) (s : State) (k : Bool → State) : Result :=
  match pinRead p s with
  | some level => .next (k level)
  | none => .fault (.noSuchPin p)

/-- pin_drive(p, m) and complete() (R171–R173). -/
def drivePin (p : Byte) (m : PinMode) (s : State) : Result :=
  if s.cfg.hasPin p then .next (complete (emit (.pinDrive p m) s)) else .fault (.noSuchPin p)

/-- rx_pop() as seen by the FSM (R9): RXQ without its oldest byte. -/
def dropRx (s : State) : State := s.withEnv { s.env with rxq := s.env.rxq.tail }

/-- The byte waits set WATCH_QUIT again when they end (R181, R190). -/
def setWatch (w : Bool) (s : State) : State := s.withSeq { s.seq with watchQuit := w }

/-- CANCEL after the FSM has popped byte b (R181, R190). -/
def noteQuit (b : Byte) (s : State) : State :=
  s.withSeq { s.seq with cancel := cancelAfter s.cfg.quitByte s.seq.cancel b }

end Sys2Proof.Machine
end

