-- ==== Sys2Proof/Machine/Char.lean ====
section
/-! DEFINITION. Byte transmit and receive (45_char_ops.md) and the TX wait (40_engine.md R123). -/

namespace Sys2Proof.Machine

/-- CharTransmit (R180): the byte raw, with no EOL_BYTES. -/
def execCharTransmit (byte : Byte) (s : State) : Result := .next (emitBytes [byte] s)

/-- TX poll (R123): at most one byte a step; CANCEL is not tested. -/
def pollTx (s : State) : Result :=
  match s.seq.outq with
  | [] => .fault .emptyOutput
  | b :: rest =>
    if s.env.txReady then
      let s := emit (.txPush b) s
      let s := s.withSeq { s.seq with outq := rest }
      .next (if rest = [] then complete s else s)
    else .next s

/-- CharReceive, dispatch part (R181): the background watch is off while the byte is awaited. -/
def execCharReceive (s : State) : Result := .next (enterWait .cr (setWatch false s))

/-- CR poll (R181). -/
def pollCr (s : State) : Result :=
  if s.seq.cancel then .next (complete (setWatch true s))
  else match s.env.rxq with
    | [] => .next s
    | b :: _ => .next (complete (noteQuit b (setWatch true (dropRx s))))

end Sys2Proof.Machine
end

