-- ==== Sys2Proof/Machine/Control.lean ====
section
/-! DEFINITION. The control-flow opcodes (46_control_ops.md). -/

namespace Sys2Proof.Machine

/-- CharGoto, dispatch part (R190). -/
def execCharGoto (s : State) : Result := .next (enterWait .cg (setWatch false s))

/-- The received byte is no stored step index (R190: b ≥ STEP_COUNT). -/
def outOfRange (b : Byte) (s : State) : Bool := decide (s.store.stepCount.toNat ≤ b.toNat)

/-- What CharGoto does with byte b once it has popped it and set WATCH_QUIT (R190). -/
def charGotoByte (b : Byte) (s : State) : State :=
  if b = s.cfg.quitByte then complete (noteQuit b s)
  else if outOfRange b s && decide (s.cfg.cgOor = .fault) then raiseFault .badTarget s
  else complete (jump b s)

/-- CG poll (R190). -/
def pollCg (s : State) : Result :=
  if s.seq.cancel then .next (complete (setWatch true s))
  else match s.env.rxq with
    | [] => .next s
    | b :: _ => .next (charGotoByte b (setWatch true (dropRx s)))

/-- Lazy activation (R191): an inactive slot loads LOOP_CUR from LOOP_INIT and becomes active. -/
def LoopSlot.activate (l : LoopSlot) : LoopSlot :=
  if l.act then l else { l with cur := l.init, act := true }

/-- Whether a Loop dispatch on this slot jumps (R191): its count, once activated, is above 0. -/
def LoopSlot.jumps (l : LoopSlot) : Bool := decide (l.activate.cur ≠ 0#16)

/-- The slot after a Loop dispatch (R191): one count used, or inactive on fall-through. -/
def LoopSlot.next (l : LoopSlot) : LoopSlot :=
  if l.jumps then { l.activate with cur := l.activate.cur - 1#16 } else { l.activate with act := false }

/-- Loop (R191). A slot below LOOP_COUNT but outside the table exists in no run (log 20). -/
def execLoop (target slot : Byte) (s : State) : Result :=
  if s.store.loopCount.toNat ≤ slot.toNat then .next (raiseFault .badSlot s)
  else if h : slot.toNat < 10 then
    let l := s.store.slots[slot.toNat]
    let s := s.withStore { s.store with slots := s.store.slots.set slot.toNat l.next }
    .next (complete (if l.jumps then jump target s else s))
  else .fault (.noSuchSlot slot.toNat)

/-- Goto (R192). -/
def execGoto (target : Byte) (s : State) : Result := .next (complete (jump target s))

/-- Noop (R193). -/
def execNoop (s : State) : Result := .next (complete s)

end Sys2Proof.Machine
end

