-- ==== Sys2Proof/Machine/Delay.lean ====
section
/-! DEFINITION. The delay and elapsed-time opcodes (43_delay_timer_ops.md). -/

namespace Sys2Proof.Machine

/-- DelayMs, dispatch part (R153). -/
def execDelayMs (v : Word16) (s : State) : Result :=
  .next (enterWait .dms
    (s.withTimer { s.timer with msTarget := delayTarget s.timer.msCount v, tick := false }))

/-- DMS poll (R153). -/
def pollDms (s : State) : Result :=
  if s.seq.cancel then .next (complete s)
  else if s.timer.tick then .next (complete s)
  else .next s

/-- Channel C enable (R154). -/
def setSvcEn (en : Bool) (s : State) : State := s.withTimer { s.timer with svcEn := en }

/-- DelayUs, dispatch part (R154): zero ticks completes at once. -/
def execDelayUs (v : Word16) (s : State) : Result :=
  if v = 0#16 then .next (complete s)
  else .next (enterWait .dus (armOneshot v (setSvcEn false s)))

/-- DUS poll (R154): CANCEL is not tested. -/
def pollDus (s : State) : Result :=
  if s.timer.osDone then .next (complete (setSvcEn true (restore s))) else .next s

/-- TimerBegin (R155). -/
def execTimerBegin (s : State) : Result :=
  .next (complete (s.withSeq { s.seq with tbMs := s.timer.msCount, tbPh := s.timer.cnt }))

/-- TimerEnd (R156). -/
def execTimerEnd (s : State) : Result :=
  .next (emitBytes
    (dec (elapsedUs s.cfg.ticksPerUs s.timer.msCount s.timer.cnt s.seq.tbMs s.seq.tbPh).toNat
      ++ s.cfg.eol.bytes) s)

end Sys2Proof.Machine
end

