-- ==== Sys2Proof/Machine/Pin.lean ====
section
/-! DEFINITION. The pin and analog opcodes (44_pin_ops.md). -/

namespace Sys2Proof.Machine

/-- SetPwm (R170): the value is passed unchanged, with no scaling or clamping. -/
def execSetPwm (pin : Byte) (v : Word16) (s : State) : Result :=
  if s.cfg.hasPin pin then
    if s.cfg.hasPwm pin then .next (complete (emit (.pwmWrite pin v) s)) else .fault (.notPwmCapable pin)
  else .fault (.noSuchPin pin)

/-- SetHigh (R171). -/
def execSetHigh (pin : Byte) (s : State) : Result := drivePin pin .high s

/-- SetLow (R172). -/
def execSetLow (pin : Byte) (s : State) : Result := drivePin pin .low s

/-- SetTristate (R173). -/
def execSetTristate (pin : Byte) (s : State) : Result := drivePin pin .tristate s

/-- The digit ReadDigital reports, with EOL_BYTES (R174). -/
def emitLevel (level : Bool) (s : State) : State := emitBytes (levelByte level :: s.cfg.eol.bytes) s

/-- Take a sample as the level to hold and arm a full window (R174). -/
def armSteady (level : Bool) (s : State) : State :=
  armOneshot s.seq.wt (s.withSeq { s.seq with lvl := level })

/-- ReadDigital, dispatch part (R174). -/
def execReadDigital (pin : Byte) (s : State) : Result :=
  withPinLevel pin s fun level =>
    if s.seq.wt = 0#16 then emitLevel level s else enterWait .rsettle (armSteady level s)

/-- The RSETTLE poll once the pin is sampled (R174). -/
def rsettleSampled (s : State) (level : Bool) : State :=
  if level = s.seq.lvl then
    if s.timer.osDone then emitLevel s.seq.lvl (restore s) else s
  else armSteady level s

/-- RSETTLE poll (R174): on CANCEL it completes with no output. -/
def pollRsettle (s : State) : Result :=
  if s.seq.cancel then .next (complete (restore s)) else withPinLevel (irPin s) s (rsettleSampled s)

/-- ReadAnalog, dispatch part (R175). -/
def execReadAnalog (pin : Byte) (s : State) : Result :=
  if s.cfg.hasPin pin then
    if s.cfg.hasAnalog pin then
      let s := emit (.adcStart pin) s
      .next (enterWait .adc (s.withEnv { s.env with adc := .converting pin }))
    else .fault (.notAnalogCapable pin)
  else .fault (.noSuchPin pin)

/-- ADC poll (R175): CANCEL is not tested. -/
def pollAdc (s : State) : Result :=
  match adcResult s with
  | some r => .next (emitBytes (dec r.toNat ++ s.cfg.eol.bytes) s)
  | none => .next s

end Sys2Proof.Machine
end

