-- ==== Sys2Proof/Machine/Wait.lean ====
section
/-! DEFINITION. The wait opcodes (42_wait_ops.md): dispatch parts R145–R151, poll parts R143. The waits do not use
their pin operand at dispatch (but for wc and rc): every poll reads IR[7:0] (R29, log 26). -/

namespace Sys2Proof.Machine

/-- WaitHigh (R145). -/
def execWaitHigh (_pin : Byte) (s : State) : Result := .next (startWait true true s)

/-- WaitLow (R146). -/
def execWaitLow (_pin : Byte) (s : State) : Result := .next (startWait false true s)

/-- WaitChange (R147): wait for the complement of the level at dispatch. -/
def execWaitChange (pin : Byte) (s : State) : Result :=
  withPinLevel pin s fun s0 => startWait (!s0) true s

/-- RawWaitHigh (R148). -/
def execRawWaitHigh (_pin : Byte) (s : State) : Result := .next (startWait true false s)

/-- RawWaitLow (R149). -/
def execRawWaitLow (_pin : Byte) (s : State) : Result := .next (startWait false false s)

/-- RawWaitChange (R150). -/
def execRawWaitChange (pin : Byte) (s : State) : Result :=
  withPinLevel pin s fun s0 => startWait (!s0) false s

/-- SetWaitTime (R151). -/
def execSetWaitTime (v : Word16) (s : State) : Result :=
  .next (complete (s.withSeq { s.seq with wt := v }))

/-- The LEVEL poll once the pin is sampled (R143). -/
def levelSampled (s : State) (level : Bool) : State :=
  if level = s.seq.lvl then
    if s.seq.deb then
      let s := armOneshot s.seq.wt s
      s.withSeq { s.seq with opw := .settle }
    else complete s
  else s

/-- LEVEL poll (R143, R144: CANCEL first). -/
def pollLevel (s : State) : Result :=
  if s.seq.cancel then .next (complete s) else withPinLevel (irPin s) s (levelSampled s)

/-- The SETTLE poll once the pin is sampled (R143, R144: the pin before OS_DONE). -/
def settleSampled (s : State) (level : Bool) : State :=
  if level = s.seq.lvl then
    if s.timer.osDone then complete (restore s) else s
  else
    let s := restore s
    s.withSeq { s.seq with opw := .level }

/-- SETTLE poll (R143, R144). -/
def pollSettle (s : State) : Result :=
  if s.seq.cancel then .next (complete (restore s)) else withPinLevel (irPin s) s (settleSampled s)

end Sys2Proof.Machine
end

