-- ==== Sys2Proof/Machine/Dispatch.lean ====
section
/-! DEFINITION. dispatch(IR) (40_engine.md R117): the dispatch part of each opcode, one arm per constructor. -/

namespace Sys2Proof.Machine

def exec (i : Instr) (s : State) : Host.Outcome State Fault Refusal :=
  match i with
  | .waitHigh pin => Sys2Proof.Machine.execWaitHigh pin s
  | .waitLow pin => Sys2Proof.Machine.execWaitLow pin s
  | .waitChange pin => Sys2Proof.Machine.execWaitChange pin s
  | .rawWaitHigh pin => Sys2Proof.Machine.execRawWaitHigh pin s
  | .rawWaitLow pin => Sys2Proof.Machine.execRawWaitLow pin s
  | .rawWaitChange pin => Sys2Proof.Machine.execRawWaitChange pin s
  | .setWaitTime v => Sys2Proof.Machine.execSetWaitTime v s
  | .delayMs v => Sys2Proof.Machine.execDelayMs v s
  | .delayUs v => Sys2Proof.Machine.execDelayUs v s
  | .timerBegin => Sys2Proof.Machine.execTimerBegin s
  | .timerEnd => Sys2Proof.Machine.execTimerEnd s
  | .setPwm pin v => Sys2Proof.Machine.execSetPwm pin v s
  | .setHigh pin => Sys2Proof.Machine.execSetHigh pin s
  | .setLow pin => Sys2Proof.Machine.execSetLow pin s
  | .setTristate pin => Sys2Proof.Machine.execSetTristate pin s
  | .readDigital pin => Sys2Proof.Machine.execReadDigital pin s
  | .readAnalog pin => Sys2Proof.Machine.execReadAnalog pin s
  | .charTransmit byte => Sys2Proof.Machine.execCharTransmit byte s
  | .charReceive => Sys2Proof.Machine.execCharReceive s
  | .charGoto => Sys2Proof.Machine.execCharGoto s
  | .loop target slot => Sys2Proof.Machine.execLoop target slot s
  | .goto target => Sys2Proof.Machine.execGoto target s
  | .noop => Sys2Proof.Machine.execNoop s

end Sys2Proof.Machine
end

