-- ==== Sys2Proof/Machine/Engine.lean ====
section
/-! DEFINITION. The FSM agent (40_engine.md): the command port, the append, the head step, dispatch and polls. -/

namespace Sys2Proof.Machine

/-- dispatch(IR) (R117): a tag above 0x16 raises Fault(ILLEGAL_TAG). -/
def dispatch (r : Rec) (s : State) : Result :=
  match decode r with
  | .instr i => exec i s
  | .reserved _ => .next (raiseFault .illegalTag s)

/-! ### Commands (R110–R114) -/

/-- PROGRAM (R112): only the length counters are cleared. -/
def acceptProgram (s : State) : State :=
  let s := s.withStore { s.store with stepCount := 0#9, loopCount := 0#4 }
  respond .ok (s.withSeq { s.seq with execMode := .recording })

/-- END (R112). -/
def acceptEnd (s : State) : State :=
  respond .ok (s.withSeq { s.seq with execMode := .immediate })

/-- The record is a Loop step (R113: tag = 0x14). -/
def isLoopRec (r : Rec) : Bool := decide (recTag r = 0x14#8)

/-- The record as stored (R113): a Loop's operand byte 1 becomes its slot number. -/
def storedRec (loopCount : BitVec 4) (r : Rec) : Rec :=
  if isLoopRec r then mkRec (recTag r) (recOb3 r) (recOb2 r) (loopCount.setWidth 8) (recOb0 r) else r

/-- The step array is full (R113); STEP_COUNT never exceeds its cap (R28, log 19). -/
def stepsFull (m : Store) : Bool := decide (Config.stepCap ≤ m.stepCount.toNat)

/-- The loop-slot table is full (R113); LOOP_COUNT never exceeds its cap (R28, log 19). -/
def slotsFull (m : Store) : Bool := decide (Config.loopCap ≤ m.loopCount.toNat)

/-- The store after a slot is allocated for a Loop step with this count (R113). -/
def allocSlot (count : Word16) (m : Store) : Store :=
  if h : m.loopCount.toNat < 10 then
    { m with
      slots := m.slots.set m.loopCount.toNat { m.slots[m.loopCount.toNat] with init := count }
      loopCount := m.loopCount + 1#4 }
  else m

/-- append(rec, count) on the store (R113): the response, and the store it leaves. -/
def appendStore (r : Rec) (count : Word16) (m : Store) : Response × Store :=
  if stepsFull m then (.noRoom, m)
  else if isLoopRec r && slotsFull m then (.noRoom, m)
  else
    let m' := if isLoopRec r then allocSlot count m else m
    (.ok, { storeWrite m' m.stepCount.toNat (storedRec m.loopCount r) with stepCount := m.stepCount + 1#9 })

/-- append(rec, count) (R113). -/
def append (r : Rec) (count : Word16) (s : State) : State :=
  let a := appendStore r count s.store
  respond a.1 (s.withStore a.2)

/-- The tag is CharGoto, Loop or Goto (R119). -/
def skippedTag (tag : Byte) : Bool :=
  decide (tag = 0x13#8) || decide (tag = 0x14#8) || decide (tag = 0x15#8)

/-- The state an immediate step is dispatched in (R118). -/
def loadImmediate (r : Rec) (s : State) : State :=
  s.withSeq { s.seq with cancel := false, ir := r, ctx := .imm, watchQuit := true }

/-- immediate(rec) (R118, R119). -/
def immediate (r : Rec) (s : State) : Result :=
  let s := loadImmediate r s
  if skippedTag (recTag r) then .next (finishImm s) else dispatch r s

/-- SUBMIT(rec, count) (R111). -/
def acceptSubmit (r : Rec) (count : Word16) (s : State) : Result :=
  if tagDefined (recTag r) then
    match s.seq.execMode with
    | .recording => .next (append r count s)
    | .immediate => immediate r s
  else .next (respond .badOpcode s)

/-- RUN(n) (R114). -/
def acceptRun (n : Word16) (s : State) : State :=
  let s := s.withSeq { s.seq with cancel := false }
  if n = 0#16 then respond (.done false) (s.withSeq { s.seq with lastCancelled := false })
  else
    (s.withStore (clearActive s.store)).withSeq
      { s.seq with iter := n, pc := 0#9, ctx := .run, watchQuit := true, fsm := .runHead }

/-- A command accepted while FSM = IDLE (R110). -/
def accept (c : Command) (s : State) : Result :=
  match c with
  | .program => .next (acceptProgram s)
  | .finish => .next (acceptEnd s)
  | .submit r count => acceptSubmit r count s
  | .run n => .next (acceptRun n s)

/-- The FSM step in IDLE (R110): the offered command is taken off the port and accepted; with none offered the
FSM has nothing to do (log 14). -/
def idleStep (s : State) : Result :=
  match s.env.port with
  | none => .next s
  | some c => accept c (s.withEnv { s.env with port := none })

/-! ### Running the store (R115) -/

/-- The state a fetched step is dispatched in (R115): CUR, IR and PC written before dispatch. -/
def loadFetched (r : Rec) (s : State) : State :=
  s.withSeq { s.seq with cur := s.seq.pc, ir := r, pc := s.seq.pc + 1#9 }

/-- The next pass begins (R115). -/
def nextPass (s : State) : State :=
  (s.withStore (clearActive s.store)).withSeq { s.seq with iter := s.seq.iter - 1#16, pc := 0#9 }

/-- The end of a pass (R115). -/
def endPass (s : State) : State :=
  if s.seq.iter = 1#16 then finishRun false (s.withSeq { s.seq with iter := 0#16 }) else nextPass s

/-- Head step (R115): cancellation first, then the fetch or the end of the pass. -/
def headStep (s : State) : Result :=
  if s.seq.cancel then .next (finishRun true s)
  else if s.seq.pc.toNat < s.store.stepCount.toNat then
    match storeRead s.store s.seq.pc.toNat with
    | some r => dispatch r (loadFetched r s)
    | none => .fault (.unwrittenStep s.seq.pc.toNat)
  else .next (endPass s)

/-- OP_WAIT step (R120): the poll part of the wait named by OPW. -/
def poll (s : State) : Result :=
  match s.seq.opw with
  | .none => .fault .noWait
  | .level => pollLevel s
  | .settle => pollSettle s
  | .rsettle => pollRsettle s
  | .dms => pollDms s
  | .dus => pollDus s
  | .cr => pollCr s
  | .cg => pollCg s
  | .adc => pollAdc s
  | .tx => pollTx s

/-- One step of the FSM in its state; in FAULT it takes none (R127). -/
def fsmTransition (s : State) : Result :=
  match s.seq.fsm with
  | .idle => idleStep s
  | .runHead => headStep s
  | .opWait => poll s
  | .fault => .next s

/-- An FSM step pays the poll owed since the last tick (R128, log 2). -/
def payPoll (s : State) : State := s.withSched { s.sched with pollOwed := false }

/-- The FSM's atomic transition (R7). -/
def fsmStep (s : State) : Result := fsmTransition (payPoll s)

end Sys2Proof.Machine
end

