-- ==== Sys2Proof/Machine/TimerAgent.lean ====
section
/-! DEFINITION. The timer agent's tick (41_timing_engine.md R131–R139). -/

namespace Sys2Proof.Machine

/-- Channel A: the recurring millisecond tick (R133, R134). -/
def Timer.tickMs (t : Timer) : Timer :=
  if meetsCompare t.cnt t.cmp then
    { t with
      cnt := 0#16
      msCount := t.msCount + 1#32
      tick := tickAfter t.tick (t.msCount + 1#32) t.msTarget }
  else { t with cnt := t.cnt + 1#16 }

/-- Channel B: the one-shot compare (R135). -/
def Timer.tickOs (t : Timer) : Timer :=
  if t.osDone then t
  else if meetsCompare t.cnt t.cmp then { t with cnt := t.cmp, osDone := true }
  else { t with cnt := t.cnt + 1#16 }

/-- Channel A or B, whichever owns the shared counter (R131, R41). -/
def Timer.tickShared (t : Timer) : Timer :=
  match t.tmode with
  | .ms => t.tickMs
  | .os => t.tickOs

/-- Whether this tick is a service event (R132). -/
def Timer.serviceDue (period : Word16) (t : Timer) : Bool := t.svcEn && meetsCompare t.svcCnt period

/-- Channel C's divider (R132): it counts while enabled, and holds while disabled. -/
def Timer.tickService (period : Word16) (t : Timer) : Timer :=
  if t.svcEn then
    if meetsCompare t.svcCnt period then { t with svcCnt := 0#16 } else { t with svcCnt := t.svcCnt + 1#16 }
  else t

/-- CANCEL after the drain of R139: set by a quit byte anywhere in the queue. -/
def drainCancel (quitByte : Byte) : Bool → List Byte → Bool
  | cancel, [] => cancel
  | cancel, b :: bs => drainCancel quitByte (cancelAfter quitByte cancel b) bs

/-- The drain (R139): every byte present is removed; the quit byte sets CANCEL. -/
def drain (s : State) : State :=
  (s.withSeq { s.seq with cancel := drainCancel s.cfg.quitByte s.seq.cancel s.env.rxq }).withEnv
    { s.env with rxq := [] }

/-- service_event() (R138). -/
def serviceEvent (s : State) : State :=
  let s := emit .service s
  if s.seq.watchQuit then drain s else s

/-- The tick transition (R131): channel C first, then A or B. -/
def tick (s : State) : State :=
  let due := s.timer.serviceDue s.cfg.svcPeriod
  let s := s.withTimer (s.timer.tickService s.cfg.svcPeriod)
  let s := if due then serviceEvent s else s
  s.withTimer s.timer.tickShared

/-- A tick in OP_WAIT makes the FSM owe a poll before the next tick (R128, log 2). -/
def oweWhileWaiting (s : State) : State :=
  s.withSched { s.sched with pollOwed := decide (s.seq.fsm = .opWait) }

end Sys2Proof.Machine
end

