-- ==== Sys2Proof/Machine/Environment.lean ====
section
/-! DEFINITION. The environment's transitions (00_scope.md R7–R13, 70_reset_and_hazards.md R255), which agent moves
next (R7, R128), and the placing of a program (log 11). -/

namespace Sys2Proof.Machine

/-- The host's byte arrives (R9). -/
def receive (b : Byte) (s : State) : State := s.withEnv { s.env with rxq := s.env.rxq ++ [b] }

/-- A pin changes level (R12). -/
def setLevel (p : Byte) (level : Bool) (s : State) : State :=
  s.withEnv { s.env with levels := s.env.levels.set p.toNat level p.isLt }

/-- The transport changes tx_ready (R10). -/
def setTxReady (ready : Bool) (s : State) : State := s.withEnv { s.env with txReady := ready }

/-- The conversion in progress ends (R13); with none in progress nothing ends (log 17). -/
def finishConversion (raw : Word16) (s : State) : State :=
  match s.env.adc with
  | .converting _ => s.withEnv { s.env with adc := .done (adcTrim s.cfg.adcBits raw) }
  | .idle => s
  | .done _ => s

/-- The port is ready exactly when FSM = IDLE (R110). -/
def portReady (s : State) : Bool := decide (s.seq.fsm = .idle)

/-- The front-end offers a command; while the port is not ready, or already holds an offer, it has no such
transition (R255, 93_implementation_defined.md §2, log 12). -/
def offer (c : Command) (s : State) : State :=
  if portReady s && s.env.port.isNone then s.withEnv { s.env with port := some c } else s

/-- The front-end takes a byte of RXQ, only while the port is ready (R255, log 13). -/
def frontEndPop (s : State) : State := if portReady s then dropRx s else s

/-- One move of one agent (R7). -/
def applyMove (m : Move) (s : State) : Result :=
  match m with
  | .fsm => fsmStep s
  | .tick => .next (oweWhileWaiting (tick s))
  | .rx b => .next (receive b s)
  | .pinLevel p level => .next (setLevel p level s)
  | .txReady ready => .next (setTxReady ready s)
  | .adcFinish raw => .next (finishConversion raw s)
  | .issue c => .next (offer c s)
  | .frontEndPop => .next (frontEndPop s)
  | .reset => .next (blockReset s)

/-- The agent whose turn closes burst n, in rotation (R128, weak fairness; R255 for the transport and the ADC):
the FSM, the timer agent, the transport (tx_ready true), the converter (adc_done); log 3. -/
def turn (n : Nat) : Move :=
  match n % 4 with
  | 0 => .fsm
  | 1 => .tick
  | 2 => .txReady true
  | _ => .adcFinish (Config.freeResult n)

/-- Any finite number of moves, then one agent's turn: no agent is left out for ever (R128, log 3). -/
def fairMoves (n : Nat) : List Move := Config.freeBurst n ++ [turn n]

/-- The schedule with a move to make: where State lists none, the next burst and turn (log 1). -/
def Sched.refill (d : Sched) : Sched :=
  match d.moves with
  | [] => { d with moves := fairMoves d.freeIdx, freeIdx := d.freeIdx + 1 }
  | _ :: _ => d

/-- The move made next (R7). -/
def nextMove (s : State) : Move := s.sched.refill.moves.headD .fsm

/-- The schedule once its next move is made. -/
def Sched.consume (d : Sched) : Sched := { d.refill with moves := d.refill.moves.tail }

/-- The state in which the next move is made. -/
def consume (s : State) : State := s.withSched s.sched.consume

/-- A tick may not follow a tick in OP_WAIT with no poll between them (R128): the FSM polls first (log 2). -/
def pollFirst (s : State) : Bool :=
  decide (nextMove s = .tick) && s.sched.pollOwed && decide (s.seq.fsm = .opWait)

/-- The step index a placed record goes to: PC, or 0 where PC is past the step space. -/
def placeIndex (s : State) : Nat := if s.seq.pc.toNat < Config.stepCap then s.seq.pc.toNat else 0

/-- The loop slots a placed record needs allocated (R113). -/
def placeLoopCount (r : Rec) (m : Store) : BitVec 4 :=
  if isLoopRec r && decide (m.loopCount.toNat ≤ (recOb1 r).toNat) && decide ((recOb1 r).toNat < Config.loopCap)
  then BitVec.ofNat 4 ((recOb1 r).toNat + 1) else m.loopCount

/-- The record of an opcode-table word (log 24). -/
def tableRec (nbits w : Nat) : Rec := BitVec.ofNat 40 (w % 2 ^ nbits)

/-- The state a program whose step at PC is this record would be in at its head step: the record stored, the
counters past it, a run in progress, and the FSM next to move (log 11). -/
def placeRec (r : Rec) (s : State) : State :=
  let i := placeIndex s
  { s with
    store := { storeWrite s.store i r with
      stepCount := if i < s.store.stepCount.toNat then s.store.stepCount else BitVec.ofNat 9 (i + 1)
      loopCount := placeLoopCount r s.store }
    seq := { s.seq with
      pc := BitVec.ofNat 9 i
      iter := if s.seq.iter = 0#16 then 1#16 else s.seq.iter
      fsm := .runHead
      ctx := .run
      opw := .none
      outq := []
      cancel := false
      watchQuit := true }
    sched := { s.sched with moves := .fsm :: s.sched.moves, pollOwed := false } }

end Sys2Proof.Machine
end

