-- ==== Sys2Proof/Machine/Step.lean ====
section
/-! DEFINITION. One step of the machine: the move of the agent that is next (R7, R68, R128). -/

namespace Sys2Proof.Machine

/-- One atomic transition: the FSM's poll where R128 asks for one before a tick, otherwise the next move. -/
def step (s : State) : Host.Outcome State Fault Refusal :=
  if pollFirst s then fsmStep s else applyMove (nextMove s) (consume s)

/-- The state in which the very next step fetches and runs the step record w (log 11). -/
def State.withFetchWord (s : State) (nbits w : Nat) : State := placeRec (tableRec nbits w) s

end Sys2Proof.Machine
end

