-- ==== Sys2Proof/Safety.lean ====
section
/-! DEFINITION. What counts as a safe run: the invariants the spec's rules state of the machine, the front-end's pin
duty, and runs of the timer agent alone. -/

namespace Sys2Proof.Machine

/-- The transition leaves the machine running: no stop of the model. -/
def Runs (r : Result) : Prop := ∃ t, r = .next t

/-- R30: OPW = NONE whenever FSM ≠ OP_WAIT, OUTQ is empty whenever OPW ≠ TX; and the converses, so that every
wait has a poll and every TX poll a byte. -/
structure WaitContextOk (q : Seq) : Prop where
  wait_named : q.fsm = .opWait ↔ q.opw ≠ .none
  output_pending : q.opw = .tx ↔ q.outq ≠ []

/-- R32: WATCH_QUIT is 1 exactly while FSM ∈ {RUN_HEAD, OP_WAIT} and OPW ∉ {CR, CG}. -/
def WatchExact (q : Seq) : Prop :=
  q.watchQuit = true ↔ (q.fsm = .runHead ∨ q.fsm = .opWait) ∧ q.opw ≠ .cr ∧ q.opw ≠ .cg

/-- CTX is IMM only inside the wait of an immediate step, which is never a CharGoto (R118, R119). -/
structure ContextOk (q : Seq) : Prop where
  imm_waits : q.ctx = .imm → q.fsm = .opWait
  jump_in_run : q.opw = .cg → q.ctx = .run

/-- A wait that arms the one-shot has a window (R136: no rule arms with 0; R143, R174). -/
structure WindowOk (q : Seq) : Prop where
  settle_debounced : q.opw = .settle → q.deb = true
  debounced_window : q.opw = .level ∨ q.opw = .settle → q.deb = true → q.wt ≠ 0#16
  steady_window : q.opw = .rsettle → q.wt ≠ 0#16

/-- The sequencer's registers are as R30 and R32 say. -/
structure SequencerOk (q : Seq) : Prop where
  waits : WaitContextOk q
  watch : WatchExact q
  context : ContextOk q
  windows : WindowOk q

/-- The wait uses the one-shot (R42). -/
def Opw.usesOneShot : Opw → Bool
  | .settle => true
  | .rsettle => true
  | .dus => true
  | .none => false
  | .level => false
  | .dms => false
  | .cr => false
  | .cg => false
  | .adc => false
  | .tx => false

/-- In MS mode the counter is the sub-millisecond phase (R42). -/
structure MsPhase (ticksPerMs : Word16) (t : Timer) : Prop where
  mode : t.tmode = .ms
  compare : t.cmp = ticksPerMs
  phase : t.cnt.toNat < ticksPerMs.toNat

/-- In OS mode the counter is a one-shot that stops at its compare (R135), with a saved phase (R44). -/
structure OneShot (ticksPerMs : Word16) (t : Timer) : Prop where
  mode : t.tmode = .os
  saved : t.phSave.toNat < ticksPerMs.toNat
  armed : 0 < t.cmp.toNat
  counting : t.cnt.toNat ≤ t.cmp.toNat
  matched : t.osDone = true ↔ t.cnt = t.cmp

/-- R42 and R45: the one-shot owns the counter exactly in SETTLE, RSETTLE and DUS, and channel C is off exactly
in DUS. -/
structure ArbiterOk (s : State) : Prop where
  one_shot : s.seq.opw.usesOneShot = true → OneShot s.cfg.ticksPerMs s.timer
  ms_mode : s.seq.opw.usesOneShot = false → MsPhase s.cfg.ticksPerMs s.timer ∧ s.timer.osDone = false
  service_off : s.timer.svcEn = false ↔ s.seq.opw = .dus
  service_phase : s.timer.svcCnt.toNat < s.cfg.svcPeriod.toNat

/-- R28, R53, R61, R62: the counters are within their caps, storage is canonical and inside its arrays, and
every stored step is a defined opcode whose Loop slot is allocated. -/
structure StoreOk (m : Store) : Prop where
  step_count : m.stepCount.toNat ≤ Config.stepCap
  loop_count : m.loopCount.toNat ≤ Config.loopCap
  opc_wf : m.opc.wf
  arena_wf : m.arena.wf
  opc_bound : ∀ c ∈ m.opc, c.1 < Config.stepCap
  arena_bound : ∀ c ∈ m.arena, c.1 < Config.operandBytes * Config.stepCap
  steps_defined : ∀ i < m.stepCount.toNat, ∃ r j, storeRead m i = some r ∧ decode r = .instr j ∧
    ∀ t k, j = .loop t k → k.toNat < m.loopCount.toNat

/-- A run is in progress (R25). -/
def running (q : Seq) : Prop := q.fsm = .runHead ∨ (q.fsm = .opWait ∧ q.ctx = .run)

/-- During a run an active slot has a count no larger than its initial count (R40). -/
def LoopsOk (s : State) : Prop :=
  running s.seq → ∀ k : Fin 10, (s.store.slots[k.val]).act = true →
    (s.store.slots[k.val]).cur.toNat ≤ (s.store.slots[k.val]).init.toNat

/-- R22: PC ≤ 256 always; R158(b): a run in progress has a pass still to make. -/
structure CountersOk (q : Seq) : Prop where
  pc_bound : q.pc.toNat ≤ 256
  passes_left : running q → q.iter ≠ 0#16

/-- R128: a poll is owed only in OP_WAIT. -/
def PollOwedOk (s : State) : Prop := s.sched.pollOwed = true → s.seq.fsm = .opWait

/-- The invariant of the machine. -/
structure Inv (s : State) : Prop where
  params : s.cfg.wf = true
  sequencer : SequencerOk s.seq
  arbiter : ArbiterOk s
  store : StoreOk s.store
  loops : LoopsOk s
  counters : CountersOk s.seq
  poll_owed : PollOwedOk s

/-- The front-end's pin duty for a record (R70, R255); a reserved tag is refused and calls no interface. -/
def recPinsOk (c : Params) (r : Rec) : Prop :=
  match decode r with
  | .instr i => i.pinsOk c = true
  | .reserved _ => True

/-- The duty for a command. -/
def commandOk (c : Params) : Command → Prop
  | .program => True
  | .finish => True
  | .submit r _ => recPinsOk c r
  | .run _ => True

/-- The wait samples the pin of IR (R143, R174). -/
def Opw.samplesPin : Opw → Bool
  | .level => true
  | .settle => true
  | .rsettle => true
  | .none => false
  | .dms => false
  | .dus => false
  | .cr => false
  | .cg => false
  | .adc => false
  | .tx => false

/-- Everything the front-end has submitted keeps its pin duty: the stored steps, the offered command, and the
pin of a wait in progress. -/
structure PinDuty (s : State) : Prop where
  stored : ∀ i < s.store.stepCount.toNat, ∀ r, storeRead s.store i = some r → recPinsOk s.cfg r
  offered : ∀ c, s.env.port = some c → commandOk s.cfg c
  waiting : s.seq.opw.samplesPin = true → s.cfg.hasPin (irPin s) = true

/-- The next move, where it is a command, keeps the duty. -/
def MoveDuty (s : State) : Prop := ∀ c, nextMove s = .issue c → commandOk s.cfg c

/-- n ticks of the timer agent with no other agent moving (R131). -/
def ticks : Nat → State → State
  | 0, s => s
  | n + 1, s => ticks n (tick s)

/-- n dispatches of one Loop step, `body m` being what the steps of the loop's body, and the other agents, do to
the machine before the dispatch that follows m others (R194). -/
def loopVisits (target slot : Byte) (body : Nat → State → State) : Nat → State → Result
  | 0, s => .next s
  | n + 1, s =>
    match loopVisits target slot body n s with
    | .next t => execLoop target slot (body n t)
    | .fault f => .fault f
    | .refused r => .refused r

/-- The waits an opcode's dispatch part may enter (R117, R143, R153, R154, R156, R174, R175, R180, R181, R190). -/
def waitsOf : Instr → List Opw
  | .waitHigh _ => [.level]
  | .waitLow _ => [.level]
  | .waitChange _ => [.level]
  | .rawWaitHigh _ => [.level]
  | .rawWaitLow _ => [.level]
  | .rawWaitChange _ => [.level]
  | .setWaitTime _ => []
  | .delayMs _ => [.dms]
  | .delayUs _ => [.dus]
  | .timerBegin => []
  | .timerEnd => [.tx]
  | .setPwm _ _ => []
  | .setHigh _ => []
  | .setLow _ => []
  | .setTristate _ => []
  | .readDigital _ => [.rsettle, .tx]
  | .readAnalog _ => [.adc]
  | .charTransmit _ => [.tx]
  | .charReceive => [.cr]
  | .charGoto => [.cg]
  | .loop _ _ => []
  | .goto _ => []
  | .noop => []

/-- The number of service strobes in a trace. -/
def strobes (es : List OutEvent) : Nat := es.count .service

/-- The event is a response of the command port. -/
def OutEvent.isResponse : OutEvent → Bool
  | .resp _ => true
  | .txPush _ => false
  | .pinDrive _ _ => false
  | .pwmWrite _ _ => false
  | .adcStart _ => false
  | .service => false

/-- The number of responses in a trace (R204). -/
def responses (es : List OutEvent) : Nat := es.countP OutEvent.isResponse

/-- The number a string of digit bytes spells in base 10, most significant digit first (R124). -/
def spelled (bs : List Byte) : Nat := bs.foldl (fun n b => 10 * n + (b.toNat - 0x30)) 0

/-- The byte is an ASCII digit (R124). -/
def isDigit (b : Byte) : Bool := decide (0x30 ≤ b.toNat) && decide (b.toNat ≤ 0x39)

end Sys2Proof.Machine
end

