-- ==== Sys2Proof/Certificates/Slice0/Obligations.lean ====
section
/-! DEFINITION. The statements for the provers. -/

open Sys2Proof Sys2Proof.Machine

/-! ### Completion, reset and the fault state -/

/-- complete(), finish_imm() and finish_run(c) (R121, R122, R116): in a run a completed step returns the FSM to
RUN_HEAD; in an immediate step it returns it to IDLE and reports OK; a finished run returns it to IDLE and reports
DONE with LAST_CANCELLED. Nothing else changes. -/
def Obligations.CompletionReturnsTheSequencer : Prop :=
  ∀ s : State,
    (∀ c, finishRun c s = { s with
      seq := { s.seq with watchQuit := false, lastCancelled := c, ctx := .run, fsm := .idle }
      env := { s.env with trace := s.env.trace ++ [.resp (.done c)] } }) ∧
    (s.seq.ctx = .run →
      complete s = { s with seq := { s.seq with opw := .none, fsm := .runHead } }) ∧
    (s.seq.ctx = .imm →
      complete s = { s with
        seq := { s.seq with opw := .none, watchQuit := false, ctx := .run, fsm := .idle }
        env := { s.env with trace := s.env.trace ++ [.resp .ok] } })

/-- The reset values that R55 gives. The values of IR, LOOP_INIT and LOOP_CUR, which the model chose (log 7), are
not part of it. -/
def Obligations.ResetValuesAreTheSpecs : Prop :=
  let s := State.reset
  s.seq.fsm = .idle ∧ s.seq.ctx = .run ∧ s.seq.opw = .none ∧ s.seq.execMode = .immediate ∧
  s.seq.pc = 0#9 ∧ s.seq.cur = 0#9 ∧ s.seq.iter = 0#16 ∧ s.store.stepCount = 0#9 ∧ s.store.loopCount = 0#4 ∧
  s.seq.lvl = false ∧ s.seq.deb = false ∧ s.seq.outq = [] ∧ s.seq.cancel = false ∧
  s.seq.watchQuit = false ∧ s.seq.lastCancelled = false ∧ s.seq.wt = 0#16 ∧
  (∀ k : Fin 10, (s.store.slots[k.val]).act = false) ∧
  s.timer.tmode = .ms ∧ s.timer.cnt = 0#16 ∧ s.timer.cmp = 2000#16 ∧ s.timer.osDone = false ∧
  s.timer.phSave = 0#16 ∧ s.timer.msCount = 0#32 ∧ s.timer.msTarget = 0#32 ∧ s.timer.tick = false ∧
  s.timer.svcEn = true ∧ s.timer.svcCnt = 0#16 ∧ s.seq.tbMs = 0#32 ∧ s.seq.tbPh = 0#16 ∧
  s.seq.faultKind.code = 0#2

/-- The reset input (R240): whatever state the block is in, its registers and storage are as after reset; the
environment's state and the parameters stay (log 10), and no output event is made. The values of IR, LOOP_INIT and
LOOP_CUR after it are the model's choice (log 7). -/
def Obligations.ResetInputRestoresTheBlock : Prop :=
  ∀ s : State, nextMove s = .reset → ∃ t, step s = .next t ∧
    t.seq = State.reset.seq ∧ t.store = State.reset.store ∧
    t.timer = { State.reset.timer with cmp := BitVec.ofNat 16 (1000 * s.cfg.ticksPerUs) } ∧
    t.env = s.env ∧ t.cfg = s.cfg

/-- raise Fault(kind) (R209), and FAULT is sticky (R127): while it lasts no step but reset writes a sequencer
register or the store, and the only output events are service strobes. That FAULT is a next state and no stop is
log 31. -/
def Obligations.FaultStopsTheSequencer : Prop :=
  (∀ (k : FaultKind) (s : State), raiseFault k s = { s with
    seq := { s.seq with faultKind := k, fsm := .fault, opw := .none, watchQuit := false } }) ∧
  (∀ s t : State, s.seq.fsm = .fault → s.seq.watchQuit = false → nextMove s ≠ .reset →
    step s = .next t →
    t.seq = s.seq ∧ t.store = s.store ∧
      (t.env.trace = s.env.trace ∨ t.env.trace = s.env.trace ++ [.service]))

/-! ### The opcodes' dispatch parts -/

/-- WaitHigh and WaitLow (R145, R146), RawWaitHigh and RawWaitLow (R148, R149): LVL is the target level, DEB is 1
only for a debounced opcode with WT ≠ 0, and the FSM waits in LEVEL. Nothing else changes. -/
def Obligations.LevelWaitsStart : Prop :=
  ∀ (p : Byte) (s : State),
    exec (.waitHigh p) s = .next { s with seq := { s.seq with
      lvl := true, deb := decide (s.seq.wt ≠ 0#16), opw := .level, fsm := .opWait } } ∧
    exec (.waitLow p) s = .next { s with seq := { s.seq with
      lvl := false, deb := decide (s.seq.wt ≠ 0#16), opw := .level, fsm := .opWait } } ∧
    exec (.rawWaitHigh p) s = .next { s with seq := { s.seq with
      lvl := true, deb := false, opw := .level, fsm := .opWait } } ∧
    exec (.rawWaitLow p) s = .next { s with seq := { s.seq with
      lvl := false, deb := false, opw := .level, fsm := .opWait } }

/-- WaitChange and RawWaitChange (R147, R150): the target is the other level than the one sampled at dispatch; a
pin the Pin Table does not have stops the model (R70, log 15). -/
def Obligations.ChangeWaitsTargetTheOtherLevel : Prop :=
  ∀ (p : Byte) (s : State),
    (p.toNat < s.cfg.pins.length →
      exec (.waitChange p) s = .next { s with seq := { s.seq with
        lvl := !(s.env.levels[p.toNat]'p.isLt), deb := decide (s.seq.wt ≠ 0#16),
        opw := .level, fsm := .opWait } } ∧
      exec (.rawWaitChange p) s = .next { s with seq := { s.seq with
        lvl := !(s.env.levels[p.toNat]'p.isLt), deb := false, opw := .level, fsm := .opWait } }) ∧
    (s.cfg.pins.length ≤ p.toNat →
      exec (.waitChange p) s = .fault (.noSuchPin p) ∧
      exec (.rawWaitChange p) s = .fault (.noSuchPin p))

/-- SetWaitTime (R151): WT <- v, any 16-bit v, and the step completes. -/
def Obligations.SetWaitTimeWritesTheWindow : Prop :=
  ∀ (v : Word16) (s : State),
    exec (.setWaitTime v) s = .next (complete { s with seq := { s.seq with wt := v } })

/-- DelayMs (R153): MS_TARGET is MS_COUNT + v + 1 modulo 2^32, TICK is cleared, and the FSM waits in DMS. -/
def Obligations.DelayMsSetsItsTarget : Prop :=
  ∀ (v : Word16) (s : State),
    exec (.delayMs v) s = .next { s with
      timer := { s.timer with
        msTarget := BitVec.ofNat 32 (s.timer.msCount.toNat + v.toNat + 1), tick := false }
      seq := { s.seq with opw := .dms, fsm := .opWait } }

/-- DelayUs (R154, R136): zero ticks completes at once; otherwise channel C is off, the one-shot is armed with v
and the phase is saved when the counter was in MS mode. -/
def Obligations.DelayUsArmsTheOneShot : Prop :=
  ∀ (v : Word16) (s : State),
    (v = 0#16 → exec (.delayUs v) s = .next (complete s)) ∧
    (v ≠ 0#16 → s.timer.tmode = .ms → exec (.delayUs v) s = .next { s with
      timer := { s.timer with
        svcEn := false, tmode := .os, cnt := 0#16, cmp := v, osDone := false, phSave := s.timer.cnt }
      seq := { s.seq with opw := .dus, fsm := .opWait } }) ∧
    (v ≠ 0#16 → s.timer.tmode = .os → exec (.delayUs v) s = .next { s with
      timer := { s.timer with svcEn := false, cnt := 0#16, cmp := v, osDone := false }
      seq := { s.seq with opw := .dus, fsm := .opWait } })

/-- TimerBegin (R155): TB_MS and TB_PH take MS_COUNT and CNT, and the step completes; nothing else changes. -/
def Obligations.TimerBeginTakesTheSnapshot : Prop :=
  ∀ s : State, exec .timerBegin s = .next (complete { s with
    seq := { s.seq with tbMs := s.timer.msCount, tbPh := s.timer.cnt } })

/-- TimerEnd (R156): the decimal digits of (dms × 1000 + CNT div TICKS_PER_US − TB_PH div TICKS_PER_US) mod 2^32,
dms being MS_COUNT − TB_MS, followed by EOL_BYTES, go to the TX wait; the snapshot is kept. -/
def Obligations.TimerEndReportsElapsedMicroseconds : Prop :=
  ∀ s : State, ∃ us : Nat,
    (us : Int) = (((s.timer.msCount.toNat : Int) - s.seq.tbMs.toNat) * 1000 +
      (s.timer.cnt.toNat / s.cfg.ticksPerUs : Nat) - (s.seq.tbPh.toNat / s.cfg.ticksPerUs : Nat))
        % 2 ^ 32 ∧
    exec .timerEnd s = .next { s with seq := { s.seq with
      outq := dec us ++ s.cfg.eol.bytes, opw := .tx, fsm := .opWait } }

/-- dec(v) (R124), for every value below 10^10, which covers every value the block reports: ASCII digits that spell
v most significant first, with no leading zero, and one byte 0x30 for 0. The ASCII codes are the spec's general
knowledge (R124, log 28). -/
def Obligations.DecSpellsTheNumber : Prop :=
  dec 0 = [0x30#8] ∧
  ∀ v : Nat, v < 10 ^ 10 →
    spelled (dec v) = v ∧ (∀ b ∈ dec v, isDigit b = true) ∧ dec v ≠ [] ∧
      (v ≠ 0 → (dec v).head? ≠ some 0x30#8)

/-- SetPwm (R170): one pwm_write event with the value unchanged, and the step completes; a pin the Pin Table does
not have, or one without PWM, stops the model (R70, log 15). -/
def Obligations.SetPwmWritesTheDuty : Prop :=
  ∀ (p : Byte) (v : Word16) (s : State),
    (∀ d, s.cfg.pins[p.toNat]? = some d → d.pwmMax ≠ none →
      exec (.setPwm p v) s = .next (complete { s with
        env := { s.env with trace := s.env.trace ++ [.pwmWrite p v] } })) ∧
    (∀ d, s.cfg.pins[p.toNat]? = some d → d.pwmMax = none →
      exec (.setPwm p v) s = .fault (.notPwmCapable p)) ∧
    (s.cfg.pins.length ≤ p.toNat → exec (.setPwm p v) s = .fault (.noSuchPin p))

/-- SetHigh, SetLow and SetTristate (R171–R173): one pin_drive event, and the step completes; a pin the Pin Table
does not have stops the model (R70, log 15). -/
def Obligations.PinDrivesAreOutputEvents : Prop :=
  ∀ (p : Byte) (s : State),
    (p.toNat < s.cfg.pins.length →
      exec (.setHigh p) s = .next (complete { s with
        env := { s.env with trace := s.env.trace ++ [.pinDrive p .high] } }) ∧
      exec (.setLow p) s = .next (complete { s with
        env := { s.env with trace := s.env.trace ++ [.pinDrive p .low] } }) ∧
      exec (.setTristate p) s = .next (complete { s with
        env := { s.env with trace := s.env.trace ++ [.pinDrive p .tristate] } })) ∧
    (s.cfg.pins.length ≤ p.toNat →
      exec (.setHigh p) s = .fault (.noSuchPin p) ∧ exec (.setLow p) s = .fault (.noSuchPin p) ∧
      exec (.setTristate p) s = .fault (.noSuchPin p))

/-- ReadDigital, dispatch part (R174): with WT = 0 the digit of the level and EOL_BYTES go to the TX wait; with
WT ≠ 0 the level is held and the one-shot armed with WT; a pin the Pin Table does not have stops the model
(log 15). -/
def Obligations.ReadDigitalSamplesThePin : Prop :=
  ∀ (p : Byte) (s : State),
    (p.toNat < s.cfg.pins.length → s.seq.wt = 0#16 →
      exec (.readDigital p) s = .next { s with seq := { s.seq with
        outq := BitVec.ofNat 8 (0x30 + (s.env.levels[p.toNat]'p.isLt).toNat) :: s.cfg.eol.bytes,
        opw := .tx, fsm := .opWait } }) ∧
    (p.toNat < s.cfg.pins.length → s.seq.wt ≠ 0#16 → s.timer.tmode = .ms →
      exec (.readDigital p) s = .next { s with
        seq := { s.seq with lvl := s.env.levels[p.toNat]'p.isLt, opw := .rsettle, fsm := .opWait }
        timer := { s.timer with
          tmode := .os, cnt := 0#16, cmp := s.seq.wt, osDone := false, phSave := s.timer.cnt } }) ∧
    (p.toNat < s.cfg.pins.length → s.seq.wt ≠ 0#16 → s.timer.tmode = .os →
      exec (.readDigital p) s = .next { s with
        seq := { s.seq with lvl := s.env.levels[p.toNat]'p.isLt, opw := .rsettle, fsm := .opWait }
        timer := { s.timer with cnt := 0#16, cmp := s.seq.wt, osDone := false } }) ∧
    (s.cfg.pins.length ≤ p.toNat → exec (.readDigital p) s = .fault (.noSuchPin p))

/-- ReadAnalog, dispatch part (R175): one adc_start event, and the FSM waits in ADC; a pin the Pin Table does not
have, or one without an analog channel, stops the model (R70, log 15); that a conversion in progress is named by its
pin is log 17. -/
def Obligations.ReadAnalogStartsAConversion : Prop :=
  ∀ (p : Byte) (s : State),
    (∀ d, s.cfg.pins[p.toNat]? = some d → d.analog = true →
      exec (.readAnalog p) s = .next { s with
        env := { s.env with trace := s.env.trace ++ [.adcStart p], adc := .converting p }
        seq := { s.seq with opw := .adc, fsm := .opWait } }) ∧
    (∀ d, s.cfg.pins[p.toNat]? = some d → d.analog = false →
      exec (.readAnalog p) s = .fault (.notAnalogCapable p)) ∧
    (s.cfg.pins.length ≤ p.toNat → exec (.readAnalog p) s = .fault (.noSuchPin p))

/-- CharTransmit (R180): the byte alone, any value, goes to the TX wait. -/
def Obligations.CharTransmitSendsTheByteRaw : Prop :=
  ∀ (b : Byte) (s : State), exec (.charTransmit b) s = .next { s with
    seq := { s.seq with outq := [b], opw := .tx, fsm := .opWait } }

/-- CharReceive and CharGoto, dispatch parts (R181, R190): WATCH_QUIT is cleared so that the background leaves the
byte, and the FSM waits in CR or CG. -/
def Obligations.ByteWaitsStopTheWatch : Prop :=
  ∀ s : State,
    exec .charReceive s = .next { s with
      seq := { s.seq with watchQuit := false, opw := .cr, fsm := .opWait } } ∧
    exec .charGoto s = .next { s with
      seq := { s.seq with watchQuit := false, opw := .cg, fsm := .opWait } }

/-- Loop (R191): a slot at or above LOOP_COUNT raises Fault(BAD_SLOT); otherwise, with n the slot's count (its
initial count when it was inactive), n > 0 leaves the slot active with n − 1 and jumps, and n = 0 leaves it
inactive and falls through. No other slot changes. -/
def Obligations.LoopCountsItsSlot : Prop :=
  ∀ (t k : Byte) (s : State),
    (s.store.loopCount.toNat ≤ k.toNat →
      exec (.loop t k) s = .next (raiseFault .badSlot s)) ∧
    ∀ (h : k.toNat < 10), k.toNat < s.store.loopCount.toNat →
      let l := s.store.slots[k.toNat]
      let n := if l.act then l.cur else l.init
      (n ≠ 0#16 → exec (.loop t k) s = .next (complete { s with
        store := { s.store with
          slots := s.store.slots.set k.toNat { init := l.init, cur := n - 1#16, act := true } }
        seq := { s.seq with pc := t.setWidth 9 } })) ∧
      (n = 0#16 → exec (.loop t k) s = .next (complete { s with
        store := { s.store with
          slots := s.store.slots.set k.toNat { init := l.init, cur := 0#16, act := false } } }))

/-- Goto (R192) loads PC with its target, any value, and completes; Noop (R193) only completes, and in an immediate
step reports OK. -/
def Obligations.GotoJumpsAndNoopOnlyCompletes : Prop :=
  ∀ s : State,
    (∀ t : Byte, exec (.goto t) s = .next (complete { s with seq := { s.seq with pc := t.setWidth 9 } })) ∧
    exec .noop s = .next (complete s) ∧
    (s.seq.ctx = .imm → ∃ t, exec .noop s = .next t ∧ t.env.trace = s.env.trace ++ [.resp .ok])

/-- The frame of every opcode's dispatch part. No opcode writes a byte of the store, a counter, an initial loop
count, CUR, IR, ITER, EXEC_MODE, CANCEL, LAST_CANCELLED, MS_COUNT, SVC_CNT, RXQ, tx_ready, the port, a pin level
(log 16), the schedule (log 1) or a parameter (log 4). FSM, OPW, CTX and WATCH_QUIT end as one of four outcomes says:
a wait the opcode has, a completed step of a run, a completed immediate step, or a Loop's fault. WT, the snapshot,
PC, the loop slots, FAULT_KIND, LVL, DEB, OUTQ, each register of the timer, the ADC and the trace are written by the
opcodes named and no other, the trace also by an immediate step that completes. -/
def Obligations.OpcodesWriteOnlyWhatTheyName : Prop :=
  ∀ (i : Instr) (s t : State), exec i s = .next t →
    (∀ a, t.store.opc.read a = s.store.opc.read a ∧ t.store.arena.read a = s.store.arena.read a) ∧
    t.store.stepCount = s.store.stepCount ∧ t.store.loopCount = s.store.loopCount ∧
    (∀ k : Fin 10, (t.store.slots[k.val]).init = (s.store.slots[k.val]).init) ∧
    t.seq.cur = s.seq.cur ∧ t.seq.ir = s.seq.ir ∧ t.seq.iter = s.seq.iter ∧
    t.seq.execMode = s.seq.execMode ∧ t.seq.cancel = s.seq.cancel ∧
    t.seq.lastCancelled = s.seq.lastCancelled ∧
    t.timer.msCount = s.timer.msCount ∧ t.timer.svcCnt = s.timer.svcCnt ∧
    t.env.rxq = s.env.rxq ∧ t.env.levels = s.env.levels ∧ t.env.txReady = s.env.txReady ∧
    t.env.port = s.env.port ∧ t.sched = s.sched ∧ t.cfg = s.cfg ∧
    (t.seq.wt ≠ s.seq.wt → ∃ v, i = .setWaitTime v) ∧
    (t.seq.tbMs ≠ s.seq.tbMs ∨ t.seq.tbPh ≠ s.seq.tbPh → i = .timerBegin) ∧
    (t.seq.pc ≠ s.seq.pc → (∃ a, i = .goto a) ∨ (∃ a k, i = .loop a k)) ∧
    (t.store.slots ≠ s.store.slots → ∃ a k, i = .loop a k) ∧
    (t.seq.faultKind ≠ s.seq.faultKind → ∃ a k, i = .loop a k) ∧
    (t.seq.lvl ≠ s.seq.lvl → waitsOf i = [.level] ∨ ∃ p, i = .readDigital p) ∧
    (t.seq.deb ≠ s.seq.deb → waitsOf i = [.level]) ∧
    (t.seq.outq ≠ s.seq.outq → i = .timerEnd ∨ (∃ b, i = .charTransmit b) ∨ ∃ p, i = .readDigital p) ∧
    (t.timer.tick ≠ s.timer.tick ∨ t.timer.msTarget ≠ s.timer.msTarget → ∃ v, i = .delayMs v) ∧
    (t.timer.svcEn ≠ s.timer.svcEn → ∃ v, i = .delayUs v) ∧
    (t.timer.tmode ≠ s.timer.tmode ∨ t.timer.cnt ≠ s.timer.cnt ∨ t.timer.cmp ≠ s.timer.cmp ∨
      t.timer.osDone ≠ s.timer.osDone ∨ t.timer.phSave ≠ s.timer.phSave →
      (∃ v, i = .delayUs v) ∨ ∃ p, i = .readDigital p) ∧
    (t.env.adc ≠ s.env.adc → ∃ p, i = .readAnalog p) ∧
    (t.env.trace ≠ s.env.trace → (s.seq.ctx = .imm ∧ t.seq.fsm = .idle) ∨ (∃ p v, i = .setPwm p v) ∨
      (∃ p, i = .setHigh p) ∨ (∃ p, i = .setLow p) ∨ (∃ p, i = .setTristate p) ∨ ∃ p, i = .readAnalog p) ∧
    ((t.seq.fsm = .opWait ∧ t.seq.opw ∈ waitsOf i ∧ t.seq.ctx = s.seq.ctx ∧
        t.seq.watchQuit = (s.seq.watchQuit && decide (i ≠ .charReceive) && decide (i ≠ .charGoto))) ∨
      (s.seq.ctx = .run ∧ t.seq.fsm = .runHead ∧ t.seq.opw = .none ∧ t.seq.ctx = .run ∧
        t.seq.watchQuit = s.seq.watchQuit) ∨
      (s.seq.ctx = .imm ∧ t.seq.fsm = .idle ∧ t.seq.opw = .none ∧ t.seq.ctx = .run ∧
        t.seq.watchQuit = false) ∨
      ((∃ a k, i = .loop a k) ∧ t.seq.fsm = .fault ∧ t.seq.opw = .none ∧ t.seq.ctx = s.seq.ctx ∧
        t.seq.watchQuit = false))

/-! ### The poll parts -/

/-- LEVEL and SETTLE polls (R143, R144): CANCEL first, then the pin of IR, then OS_DONE; a pin the Pin Table does
not have stops the model when it is sampled (R70, log 15). -/
def Obligations.WaitPollsHoldTheLevel : Prop :=
  ∀ s : State,
    (s.seq.opw = .level → s.seq.cancel = true → poll s = .next (complete s)) ∧
    (s.seq.opw = .settle → s.seq.cancel = true → poll s = .next (complete (restore s))) ∧
    (s.seq.opw = .level ∨ s.seq.opw = .settle → s.seq.cancel = false →
      s.cfg.pins.length ≤ (irPin s).toNat → poll s = .fault (.noSuchPin (irPin s))) ∧
    ∀ (_ : s.seq.cancel = false) (_ : (irPin s).toNat < s.cfg.pins.length),
      let level := s.env.levels[(irPin s).toNat]'(irPin s).isLt
      (s.seq.opw = .level → level ≠ s.seq.lvl → poll s = .next s) ∧
      (s.seq.opw = .level → level = s.seq.lvl → s.seq.deb = false → poll s = .next (complete s)) ∧
      (s.seq.opw = .level → level = s.seq.lvl → s.seq.deb = true → s.timer.tmode = .ms →
        poll s = .next { s with
          seq := { s.seq with opw := .settle }
          timer := { s.timer with
            tmode := .os, cnt := 0#16, cmp := s.seq.wt, osDone := false, phSave := s.timer.cnt } }) ∧
      (s.seq.opw = .settle → level ≠ s.seq.lvl → poll s = .next { s with
        seq := { s.seq with opw := .level }
        timer := { s.timer with
          tmode := .ms, cnt := s.timer.phSave, cmp := s.cfg.ticksPerMs, osDone := false } }) ∧
      (s.seq.opw = .settle → level = s.seq.lvl → s.timer.osDone = false → poll s = .next s) ∧
      (s.seq.opw = .settle → level = s.seq.lvl → s.timer.osDone = true →
        poll s = .next (complete (restore s)))

/-- RSETTLE poll (R174): CANCEL restores and completes with no digit; a changed level is taken and the window
re-armed with the saved phase kept; an unchanged level is reported when the window has run out. A pin the Pin Table
does not have stops the model when it is sampled (R70, log 15). -/
def Obligations.SteadyReadReArmsOnEveryChange : Prop :=
  ∀ s : State, s.seq.opw = .rsettle →
    (s.seq.cancel = true → poll s = .next (complete (restore s))) ∧
    (s.seq.cancel = false → s.cfg.pins.length ≤ (irPin s).toNat →
      poll s = .fault (.noSuchPin (irPin s))) ∧
    ∀ (_ : s.seq.cancel = false) (_ : (irPin s).toNat < s.cfg.pins.length),
      let level := s.env.levels[(irPin s).toNat]'(irPin s).isLt
      (level ≠ s.seq.lvl → s.timer.tmode = .os → poll s = .next { s with
        seq := { s.seq with lvl := level }
        timer := { s.timer with cnt := 0#16, cmp := s.seq.wt, osDone := false } }) ∧
      (level = s.seq.lvl → s.timer.osDone = false → poll s = .next s) ∧
      (level = s.seq.lvl → s.timer.osDone = true → poll s = .next { s with
        timer := { s.timer with
          tmode := .ms, cnt := s.timer.phSave, cmp := s.cfg.ticksPerMs, osDone := false }
        seq := { s.seq with
          outq := BitVec.ofNat 8 (0x30 + s.seq.lvl.toNat) :: s.cfg.eol.bytes, opw := .tx, fsm := .opWait } })

/-- DMS and DUS polls (R153, R154): DMS completes on CANCEL or TICK; DUS completes on OS_DONE alone, restoring the
time base and channel C; otherwise nothing changes. -/
def Obligations.DelayPollsWaitForTheirFlag : Prop :=
  ∀ s : State,
    (s.seq.opw = .dms → s.seq.cancel = true ∨ s.timer.tick = true → poll s = .next (complete s)) ∧
    (s.seq.opw = .dms → s.seq.cancel = false → s.timer.tick = false → poll s = .next s) ∧
    (s.seq.opw = .dus → s.timer.osDone = false → poll s = .next s) ∧
    (s.seq.opw = .dus → s.timer.osDone = true → poll s = .next (complete { s with
      timer := { s.timer with svcEn := true, tmode := .ms, cnt := s.timer.phSave,
                              cmp := s.cfg.ticksPerMs, osDone := false } }))

/-- ADC and TX polls (R175, R123): the ADC wait ends only on adc_done and sends the decimal result and EOL_BYTES; the
TX wait sends at most one byte a step, in order, only while tx_ready, and completes with the last one. -/
def Obligations.OutputPollsSendEveryByte : Prop :=
  ∀ s : State,
    (s.seq.opw = .adc → (∀ r, s.env.adc ≠ .done r) → poll s = .next s) ∧
    (∀ r, s.seq.opw = .adc → s.env.adc = .done r → poll s = .next { s with
      seq := { s.seq with outq := dec r.toNat ++ s.cfg.eol.bytes, opw := .tx, fsm := .opWait } }) ∧
    (∀ b bs, s.seq.opw = .tx → s.seq.outq = b :: bs →
      (s.env.txReady = false → poll s = .next s) ∧
      (s.env.txReady = true → bs ≠ [] → poll s = .next { s with
        env := { s.env with trace := s.env.trace ++ [.txPush b] }
        seq := { s.seq with outq := bs } }) ∧
      (s.env.txReady = true → bs = [] → poll s = .next (complete { s with
        env := { s.env with trace := s.env.trace ++ [.txPush b] }
        seq := { s.seq with outq := [] } })))

/-- CR poll (R181): with CANCEL = 0 and a byte in RXQ it removes that byte, watches again, sets CANCEL on the quit
byte, and completes; with none it waits. -/
def Obligations.CharReceiveTakesOneByte : Prop :=
  ∀ s : State, s.seq.opw = .cr →
    (s.seq.cancel = true →
      poll s = .next (complete { s with seq := { s.seq with watchQuit := true } })) ∧
    (s.seq.cancel = false → s.env.rxq = [] → poll s = .next s) ∧
    (∀ b bs, s.seq.cancel = false → s.env.rxq = b :: bs →
      poll s = .next (complete { s with
        env := { s.env with rxq := bs }
        seq := { s.seq with watchQuit := true, cancel := decide (b = s.cfg.quitByte) } }))

/-- CG poll (R190): the byte removed cancels if it is the quit byte; with CG_OOR = FAULT a byte at or above
STEP_COUNT raises Fault(BAD_TARGET), the byte popped (log 21); otherwise PC is the byte, unchecked. -/
def Obligations.CharGotoJumpsToTheByte : Prop :=
  ∀ s : State, s.seq.opw = .cg →
    (s.seq.cancel = true →
      poll s = .next (complete { s with seq := { s.seq with watchQuit := true } })) ∧
    (s.seq.cancel = false → s.env.rxq = [] → poll s = .next s) ∧
    (∀ b bs, s.seq.cancel = false → s.env.rxq = b :: bs →
      (b = s.cfg.quitByte → poll s = .next (complete { s with
        env := { s.env with rxq := bs }
        seq := { s.seq with watchQuit := true, cancel := true } })) ∧
      (b ≠ s.cfg.quitByte → s.cfg.cgOor = .fault → s.store.stepCount.toNat ≤ b.toNat →
        poll s = .next (raiseFault .badTarget { s with env := { s.env with rxq := bs } })) ∧
      (b ≠ s.cfg.quitByte → s.cfg.cgOor = .endPass ∨ b.toNat < s.store.stepCount.toNat →
        poll s = .next (complete { s with
          env := { s.env with rxq := bs }
          seq := { s.seq with watchQuit := true, pc := b.setWidth 9 } })))

/-- Which waits test CANCEL and what they do on it (R206): LEVEL, SETTLE, RSETTLE, DMS, CR, CG and the head step
test it first; DUS, ADC and TX do not, so their polls do the same whatever CANCEL holds. -/
def Obligations.OnlyNamedWaitsTestCancel : Prop :=
  (∀ s : State, s.seq.cancel = true →
    (s.seq.opw = .level ∨ s.seq.opw = .dms → poll s = .next (complete s)) ∧
    (s.seq.opw = .settle ∨ s.seq.opw = .rsettle → poll s = .next (complete (restore s))) ∧
    (s.seq.opw = .cr ∨ s.seq.opw = .cg →
      poll s = .next (complete { s with seq := { s.seq with watchQuit := true } })) ∧
    headStep s = .next (finishRun true s)) ∧
  (∀ (s t : State) (c : Bool), s.seq.opw = .dus ∨ s.seq.opw = .adc ∨ s.seq.opw = .tx →
    poll s = .next t →
    poll { s with seq := { s.seq with cancel := c } } =
      .next { t with seq := { t.seq with cancel := c } })

/-! ### Commands, the head step and the step function -/

/-- PROGRAM and END (R112): the store's bytes and slots, WT, the timer and the snapshot stay as they were. -/
def Obligations.ProgramAndEndSwitchTheMode : Prop :=
  ∀ s : State,
    accept .program s = .next { s with
      store := { s.store with stepCount := 0#9, loopCount := 0#4 }
      seq := { s.seq with execMode := .recording }
      env := { s.env with trace := s.env.trace ++ [.resp .ok] } } ∧
    accept .finish s = .next { s with
      seq := { s.seq with execMode := .immediate }
      env := { s.env with trace := s.env.trace ++ [.resp .ok] } }

/-- Append (R113): a SUBMIT in RECORDING stores the record at index STEP_COUNT and nowhere else; a Loop takes the next
slot, records its count there and has the slot number written into operand byte 1. It needs room for the step and,
for a Loop, a free slot. -/
def Obligations.AppendStoresTheNextStep : Prop :=
  ∀ (r : Rec) (count : Word16) (s : State), (recTag r).toNat ≤ 0x16 → s.seq.execMode = .recording →
    s.store.stepCount.toNat < 256 → (recTag r = 0x14#8 → s.store.loopCount.toNat < 10) →
    ∃ m : Store,
      accept (.submit r count) s = .next { s with
        store := m, env := { s.env with trace := s.env.trace ++ [.resp .ok] } } ∧
      m.stepCount.toNat = s.store.stepCount.toNat + 1 ∧
      storeRead m s.store.stepCount.toNat = some (if recTag r = 0x14#8
        then mkRec 0x14#8 (recOb3 r) (recOb2 r) (BitVec.ofNat 8 s.store.loopCount.toNat) (recOb0 r)
        else r) ∧
      (∀ a, a ≠ s.store.stepCount.toNat → m.opc.read a = s.store.opc.read a) ∧
      (∀ a, (a < 4 * s.store.stepCount.toNat ∨ 4 * s.store.stepCount.toNat + 4 ≤ a) →
        m.arena.read a = s.store.arena.read a) ∧
      (recTag r ≠ 0x14#8 → m.loopCount = s.store.loopCount ∧ m.slots = s.store.slots) ∧
      (recTag r = 0x14#8 → m.loopCount.toNat = s.store.loopCount.toNat + 1 ∧
        ∀ k : Fin 10, m.slots[k.val] = if k.val = s.store.loopCount.toNat
          then { s.store.slots[k.val] with init := count } else s.store.slots[k.val])

/-- Refusals (R202, R203): a reserved tag is BAD_OPCODE in either mode, a full step array or, for Loop, a full slot
table is NO_ROOM; nothing but the response changes. -/
def Obligations.RefusedCommandsAreInert : Prop :=
  ∀ (r : Rec) (count : Word16) (s : State),
    (0x16 < (recTag r).toNat → accept (.submit r count) s = .next { s with
      env := { s.env with trace := s.env.trace ++ [.resp .badOpcode] } }) ∧
    ((recTag r).toNat ≤ 0x16 → s.seq.execMode = .recording →
      s.store.stepCount = 256#9 ∨ (recTag r = 0x14#8 ∧ s.store.loopCount = 10#4) →
      accept (.submit r count) s = .next { s with
        env := { s.env with trace := s.env.trace ++ [.resp .noRoom] } })

/-- RUN(n) (R114), accepted in either execute mode. -/
def Obligations.RunStartsAtStepZero : Prop :=
  ∀ (n : Word16) (s : State),
    (n = 0#16 → accept (.run n) s = .next { s with
      seq := { s.seq with cancel := false, lastCancelled := false }
      env := { s.env with trace := s.env.trace ++ [.resp (.done false)] } }) ∧
    (n ≠ 0#16 → accept (.run n) s = .next { s with
      store := { s.store with slots := s.store.slots.map fun l => { l with act := false } }
      seq := { s.seq with
        cancel := false, iter := n, pc := 0#9, ctx := .run, watchQuit := true, fsm := .runHead } })

/-- An immediate CharGoto, Loop or Goto is skipped (R118, R119): no byte is read, no slot touched, PC unchanged, and
the result is OK. -/
def Obligations.ImmediateJumpsAreSkipped : Prop :=
  ∀ (r : Rec) (count : Word16) (s : State), s.seq.execMode = .immediate →
    recTag r = 0x13#8 ∨ recTag r = 0x14#8 ∨ recTag r = 0x15#8 →
    accept (.submit r count) s = .next { s with
      seq := { s.seq with cancel := false, ir := r, ctx := .run, watchQuit := false, fsm := .idle }
      env := { s.env with trace := s.env.trace ++ [.resp .ok] } }

/-- The head step (R115): cancellation ends the run; a PC below STEP_COUNT fetches and dispatches with CUR, IR and PC
written first; a PC at or above STEP_COUNT ends the pass, and the run with the last pass. -/
def Obligations.HeadStepEndsPassesAndRuns : Prop :=
  ∀ s : State,
    (s.seq.cancel = true → headStep s = .next (finishRun true s)) ∧
    (∀ r, s.seq.cancel = false → s.seq.pc.toNat < s.store.stepCount.toNat →
      storeRead s.store s.seq.pc.toNat = some r →
      headStep s = dispatch r { s with
        seq := { s.seq with cur := s.seq.pc, ir := r, pc := s.seq.pc + 1#9 } }) ∧
    (s.seq.cancel = false → s.store.stepCount.toNat ≤ s.seq.pc.toNat → s.seq.iter = 1#16 →
      headStep s = .next (finishRun false { s with seq := { s.seq with iter := 0#16 } })) ∧
    (s.seq.cancel = false → s.store.stepCount.toNat ≤ s.seq.pc.toNat → s.seq.iter ≠ 1#16 →
      headStep s = .next { s with
        store := { s.store with slots := s.store.slots.map fun l => { l with act := false } }
        seq := { s.seq with iter := s.seq.iter - 1#16, pc := 0#9 } })

/-- What a step does when the FSM is next: in RUN_HEAD the head step (R115), in OP_WAIT the poll of the wait named
by OPW (R120), in FAULT nothing (R127), in IDLE with no command offered nothing (log 14). So a step runs the decoded
instruction (R115, R117, R118): in a run, the record at PC with CUR, IR and PC written first; in Immediate mode, the
submitted record with CANCEL cleared, IR, CTX and WATCH_QUIT written first. In each the schedule's move is used up
and no poll is owed (log 1, log 2); a command accepted is off the port (log 27). -/
def Obligations.StepRunsTheDecodedInstruction : Prop :=
  ∀ s : State, nextMove s = .fsm →
    let u : State := { s with sched := { s.sched.consume with pollOwed := false } }
    (s.seq.fsm = .runHead → step s = headStep u) ∧
    (s.seq.fsm = .opWait → step s = poll u) ∧
    (s.seq.fsm = .fault → step s = .next u) ∧
    (s.seq.fsm = .idle → s.env.port = none → step s = .next u) ∧
    ∀ (r : Rec) (i : Instr), decode r = .instr i →
      (s.seq.fsm = .runHead → s.seq.cancel = false → s.seq.pc.toNat < s.store.stepCount.toNat →
        storeRead s.store s.seq.pc.toNat = some r →
        step s = exec i { u with
          seq := { s.seq with cur := s.seq.pc, ir := r, pc := s.seq.pc + 1#9 } }) ∧
      (∀ count, s.seq.fsm = .idle → s.seq.execMode = .immediate → s.env.port = some (.submit r count) →
        recTag r ≠ 0x13#8 → recTag r ≠ 0x14#8 → recTag r ≠ 0x15#8 →
        step s = exec i { u with
          seq := { s.seq with cancel := false, ir := r, ctx := .imm, watchQuit := true }
          env := { s.env with port := none } })

/-- The commands of the port are accepted in the FSM's own step (R110): in IDLE with a command offered, the step
takes it off the port and accepts it (log 27); while the FSM is not IDLE an offer changes nothing but the schedule
(log 12). -/
def Obligations.PortIsReadyOnlyInIdle : Prop :=
  (∀ (s : State) (c : Command), nextMove s = .fsm → s.seq.fsm = .idle → s.env.port = some c →
    step s = accept c { s with
      env := { s.env with port := none }
      sched := { s.sched.consume with pollOwed := false } }) ∧
  (∀ (s : State) (c : Command), nextMove s = .issue c → s.seq.fsm ≠ .idle →
    step s = .next { s with sched := s.sched.consume }) ∧
  (∀ (s : State) (c : Command), nextMove s = .issue c → s.seq.fsm = .idle → s.env.port = none →
    step s = .next { s with env := { s.env with port := some c }, sched := s.sched.consume })

/-- The environment's moves (R9, R10, R12, R13, R255): each writes its own part of the environment and nothing of
the block; in IDLE the front-end's read of RXQ removes the oldest byte. The converter's bookkeeping, an end of
conversion with none in progress, and the front-end's read outside IDLE are the model's (log 17, log 13). -/
def Obligations.EnvironmentMovesLeaveTheBlock : Prop :=
  ∀ s : State,
    (∀ b, nextMove s = .rx b → step s = .next { s with
      env := { s.env with rxq := s.env.rxq ++ [b] }, sched := s.sched.consume }) ∧
    (∀ p l, nextMove s = .pinLevel p l → ∃ t, step s = .next t ∧ t.seq = s.seq ∧ t.store = s.store ∧
      t.timer = s.timer ∧ t.cfg = s.cfg ∧ t.env.levels[p.toNat]'p.isLt = l ∧
      (∀ q : Byte, q ≠ p → t.env.levels[q.toNat]'q.isLt = s.env.levels[q.toNat]'q.isLt) ∧
      t.env.rxq = s.env.rxq ∧ t.env.txReady = s.env.txReady ∧ t.env.adc = s.env.adc ∧
      t.env.port = s.env.port ∧ t.env.trace = s.env.trace) ∧
    (∀ r, nextMove s = .txReady r → step s = .next { s with
      env := { s.env with txReady := r }, sched := s.sched.consume }) ∧
    (∀ p raw, nextMove s = .adcFinish raw → s.env.adc = .converting p → step s = .next { s with
      env := { s.env with adc := .done (BitVec.ofNat 16 (raw.toNat % 2 ^ s.cfg.adcBits)) },
      sched := s.sched.consume }) ∧
    (∀ raw, nextMove s = .adcFinish raw → (∀ p, s.env.adc ≠ .converting p) → step s = .next { s with
      sched := s.sched.consume }) ∧
    (nextMove s = .frontEndPop → s.seq.fsm = .idle → step s = .next { s with
      env := { s.env with rxq := s.env.rxq.tail }, sched := s.sched.consume }) ∧
    (nextMove s = .frontEndPop → s.seq.fsm ≠ .idle → step s = .next { s with sched := s.sched.consume })

/-- Poll rate (R128): a tick in OP_WAIT makes the FSM owe a poll, and while it is owed the step for a tick is the
FSM's poll, after which the tick still stands next. That the rule is enforced so is the model's choice (log 2). -/
def Obligations.PollComesBetweenTwoTicks : Prop :=
  (∀ s t : State, s.seq.fsm = .opWait → nextMove s = .tick → s.sched.pollOwed = false →
    step s = .next t → t.seq.fsm = .opWait ∧ t.sched.pollOwed = true) ∧
  (∀ s : State, s.seq.fsm = .opWait → nextMove s = .tick → s.sched.pollOwed = true →
    step s = poll { s with sched := { s.sched with pollOwed := false } } ∧
    ∀ t, step s = .next t → nextMove t = .tick ∧ t.sched.pollOwed = false)

/-! ### Encoding -/

/-- Words written out from R100 and R88 decode to their instructions. -/
def Obligations.WrittenWordsDecode : Prop :=
  decode 0x0C00000001#40 = .instr (.setHigh 1#8) ∧
  decode 0x070000000A#40 = .instr (.delayMs 10#16) ∧
  decode 0x060000000A#40 = .instr (.setWaitTime 10#16) ∧
  decode 0x080000FFFE#40 = .instr (.delayUs 65534#16) ∧
  decode 0x0B0003FF09#40 = .instr (.setPwm 9#8 1023#16) ∧
  decode 0x1100000041#40 = .instr (.charTransmit 65#8) ∧
  decode 0x1500000004#40 = .instr (.goto 4#8) ∧
  decode 0x1400000100#40 = .instr (.loop 0#8 1#8)

/-- Decode and encode agree on every instruction, with every operand at every value. -/
def Obligations.DecodeInvertsEncode : Prop :=
  ∀ i : Instr, decode (encode i) = .instr i

/-- Ignored bits (R83, R91): the decoder reads only the bits its layout names, so records that agree on them decode
alike, and encoding a decoded instruction gives the record with its ignored bits cleared. -/
def Obligations.IgnoredBitsCarryNothing : Prop :=
  (∀ r r' : Rec, recTag r = recTag r' → r &&& namedBits (recTag r) = r' &&& namedBits (recTag r) →
    decode r = decode r') ∧
  (∀ (r : Rec) (i : Instr), decode r = .instr i → encode i = r &&& namedBits (recTag r))

/-- Reserved tags (R90): exactly 0x17 to 0xFF spell no opcode; a SUBMIT of one is BAD_OPCODE, and a dispatch of one
raises Fault(ILLEGAL_TAG). -/
def Obligations.ReservedTagsAreRefused : Prop :=
  ∀ r : Rec,
    ((∃ i, decode r = .instr i) ↔ (recTag r).toNat < 0x17) ∧
    (0x17 ≤ (recTag r).toNat → ∀ (s : State) (count : Word16),
      accept (.submit r count) s = .next { s with
        env := { s.env with trace := s.env.trace ++ [.resp .badOpcode] } } ∧
      dispatch r s = .next (raiseFault .illegalTag s))

/-! ### The timer arbiter -/

/-- Channel B (R135, R136): after an arm with W ≥ 1, n ticks leave CNT at min n W and OS_DONE set exactly when
n ≥ W; MS_COUNT and TICK do not move. -/
def Obligations.OneShotMatchesAfterItsWindow : Prop :=
  ∀ (w : Word16) (s : State) (n : Nat), w ≠ 0#16 →
    let t := (ticks n (armOneshot w s)).timer
    t.tmode = .os ∧ t.cnt.toNat = min n w.toNat ∧ (t.osDone = true ↔ w.toNat ≤ n) ∧
      t.cmp = w ∧ t.msCount = s.timer.msCount ∧ t.tick = s.timer.tick

/-- The time base pauses for exactly the time the one-shot holds the counter (R137, R141): armed in MS mode, ticked
any number of times and restored, CNT, MS_COUNT, MS_TARGET and TICK are what they were and CMP is TICKS_PER_MS. -/
def Obligations.TimeBasePausesDuringTheOneShot : Prop :=
  ∀ (w : Word16) (s : State) (n : Nat), s.timer.tmode = .ms →
    let t := (restore (ticks n (armOneshot w s))).timer
    t.tmode = .ms ∧ t.cnt = s.timer.cnt ∧ t.cmp = s.cfg.ticksPerMs ∧ t.osDone = false ∧
      t.msCount = s.timer.msCount ∧ t.msTarget = s.timer.msTarget ∧ t.tick = s.timer.tick

/-- Channel A (R133): in MS mode n ticks advance the time base by exactly n ticks, MS_COUNT modulo 2^32 and CNT the
phase within the millisecond. -/
def Obligations.MillisecondTickIsExact : Prop :=
  ∀ (s : State) (n : Nat), MsPhase s.cfg.ticksPerMs s.timer →
    let t := (ticks n s).timer
    let p := s.cfg.ticksPerMs.toNat
    t.tmode = .ms ∧ t.cnt.toNat = (s.timer.cnt.toNat + n) % p ∧
      t.msCount.toNat = (s.timer.msCount.toNat + (s.timer.cnt.toNat + n) / p) % 2 ^ 32

/-- The length of a DelayMs (R134, R153, R157): dispatched with the phase at CNT, its TICK is set exactly from the
((v + 1) × TICKS_PER_MS − CNT)-th tick on, so after more than v and at most v + 1 milliseconds. -/
def Obligations.DelayMsLastsToItsTick : Prop :=
  ∀ (v : Word16) (s t : State) (n : Nat), MsPhase s.cfg.ticksPerMs s.timer →
    exec (.delayMs v) s = .next t →
    let p := s.cfg.ticksPerMs.toNat
    ((ticks n t).timer.tick = true ↔ (v.toNat + 1) * p - s.timer.cnt.toNat ≤ n) ∧
      v.toNat * p < (v.toNat + 1) * p - s.timer.cnt.toNat ∧
      (v.toNat + 1) * p - s.timer.cnt.toNat ≤ (v.toNat + 1) * p

/-- Channel C (R132): while enabled, n ticks make (SVC_CNT + n) div SVC_PERIOD_TICKS service events; while disabled
the divider holds and there is none. -/
def Obligations.ServiceEventsComeEveryPeriod : Prop :=
  ∀ (s : State) (n : Nat), s.timer.svcCnt.toNat < s.cfg.svcPeriod.toNat →
    let t := ticks n s
    let p := s.cfg.svcPeriod.toNat
    (s.timer.svcEn = true →
      t.timer.svcCnt.toNat = (s.timer.svcCnt.toNat + n) % p ∧
      strobes t.env.trace = strobes s.env.trace + (s.timer.svcCnt.toNat + n) / p) ∧
    (s.timer.svcEn = false →
      t.timer.svcCnt = s.timer.svcCnt ∧ strobes t.env.trace = strobes s.env.trace)

/-- service_event() and the drain (R138, R139): one strobe; with WATCH_QUIT = 1 the queue is emptied and CANCEL is
set when the quit byte was anywhere in it; with WATCH_QUIT = 0 the queue is not touched. A step for a tick with no
poll owed is the tick transition (R131), which makes the service event exactly when channel C is on and its count
meets the period (R132); another tick leaves the sequencer, RXQ and the trace as they were. How a tick writes the
schedule is the model's (log 1, log 2). -/
def Obligations.ServiceEventDrainsForTheQuitByte : Prop :=
  ∀ s : State,
    (s.seq.watchQuit = true → serviceEvent s = { s with
      seq := { s.seq with cancel := s.seq.cancel || s.env.rxq.contains s.cfg.quitByte }
      env := { s.env with rxq := [], trace := s.env.trace ++ [.service] } }) ∧
    (s.seq.watchQuit = false → serviceEvent s = { s with
      env := { s.env with trace := s.env.trace ++ [.service] } }) ∧
    (nextMove s = .tick → pollFirst s = false → ∃ t, step s = .next t ∧
      t = oweWhileWaiting (tick (consume s)) ∧
      (s.timer.svcEn = true → s.timer.svcCnt + 1#16 = s.cfg.svcPeriod → s.seq.watchQuit = true →
        t.seq = { s.seq with cancel := s.seq.cancel || s.env.rxq.contains s.cfg.quitByte } ∧
        t.env = { s.env with rxq := [], trace := s.env.trace ++ [.service] }) ∧
      (s.timer.svcEn = true → s.timer.svcCnt + 1#16 = s.cfg.svcPeriod → s.seq.watchQuit = false →
        t.seq = s.seq ∧ t.env = { s.env with trace := s.env.trace ++ [.service] }) ∧
      (s.timer.svcEn = false ∨ s.timer.svcCnt + 1#16 ≠ s.cfg.svcPeriod →
        t.seq = s.seq ∧ t.env = s.env))

/-- During DelayUs (R140): with channel C off, any number of ticks leaves CANCEL, RXQ, SVC_CNT and the trace as they
were, so a quit byte stays queued. -/
def Obligations.DelayUsSuspendsTheWatch : Prop :=
  ∀ (v : Word16) (s t : State) (n : Nat), v ≠ 0#16 → exec (.delayUs v) s = .next t →
    (ticks n t).seq = t.seq ∧ (ticks n t).env = s.env ∧
      (ticks n t).timer.svcCnt = s.timer.svcCnt

/-! ### Whole-machine rules -/

/-- PC (R24): it changes only by RUN acceptance, the head step, CharGoto's poll and reset, and then to the value
the rule gives; an immediate dispatch never changes it. -/
def Obligations.PcIsWrittenOnlyByItsRules : Prop :=
  ∀ s t : State, step s = .next t → t.seq.pc ≠ s.seq.pc →
    nextMove s = .reset ∨
    (s.seq.fsm = .idle ∧ t.seq.pc = 0#9 ∧ ∃ n, n ≠ 0#16 ∧ s.env.port = some (.run n)) ∨
    (s.seq.fsm = .runHead ∧ s.seq.cancel = false ∧
      ((s.store.stepCount.toNat ≤ s.seq.pc.toNat ∧ t.seq.pc = 0#9) ∨
       ∃ r, storeRead s.store s.seq.pc.toNat = some r ∧
        (t.seq.pc = s.seq.pc + 1#9 ∨
         ∃ a : Byte, t.seq.pc = a.setWidth 9 ∧
          (decode r = .instr (.goto a) ∨ ∃ k, decode r = .instr (.loop a k))))) ∨
    (s.seq.fsm = .opWait ∧ s.seq.opw = .cg ∧
      ∃ b bs, s.env.rxq = b :: bs ∧ t.seq.pc = b.setWidth 9)

/-- CANCEL (R31, R205): it is set only by a service event (a tick at which channel C, on, meets its period) that
drains the quit byte while WATCH_QUIT = 1 and by the CR and CG polls that pop it, and cleared only by the acceptance of RUN or of an immediate SUBMIT, and by reset. -/
def Obligations.CancelIsWrittenOnlyByItsRules : Prop :=
  ∀ s t : State, step s = .next t →
    (s.seq.cancel = false → t.seq.cancel = true →
      (nextMove s = .tick ∧ s.timer.svcEn = true ∧ s.timer.svcCnt + 1#16 = s.cfg.svcPeriod ∧
        s.seq.watchQuit = true ∧ s.cfg.quitByte ∈ s.env.rxq) ∨
      (s.seq.fsm = .opWait ∧ (s.seq.opw = .cr ∨ s.seq.opw = .cg) ∧
        ∃ bs, s.env.rxq = s.cfg.quitByte :: bs)) ∧
    (s.seq.cancel = true → t.seq.cancel = false →
      nextMove s = .reset ∨
      (s.seq.fsm = .idle ∧ ((∃ n, s.env.port = some (.run n)) ∨
        ∃ r count, s.env.port = some (.submit r count) ∧ s.seq.execMode = .immediate ∧
          (recTag r).toNat ≤ 0x16)))

/-- WT is written only by SetWaitTime and reset (R37), TB_MS and TB_PH only by TimerBegin and reset (R46): dispatched
from the store in a run or from the port in Immediate mode. -/
def Obligations.WindowAndSnapshotHaveOneWriter : Prop :=
  ∀ s t : State, step s = .next t →
    (t.seq.wt ≠ s.seq.wt → nextMove s = .reset ∨
      (s.seq.fsm = .runHead ∧ ∃ r, storeRead s.store s.seq.pc.toNat = some r ∧
        decode r = .instr (.setWaitTime t.seq.wt)) ∨
      (s.seq.fsm = .idle ∧ s.seq.execMode = .immediate ∧ ∃ r count,
        s.env.port = some (.submit r count) ∧ decode r = .instr (.setWaitTime t.seq.wt))) ∧
    (t.seq.tbMs ≠ s.seq.tbMs ∨ t.seq.tbPh ≠ s.seq.tbPh → nextMove s = .reset ∨
      (t.seq.tbMs = s.timer.msCount ∧ t.seq.tbPh = s.timer.cnt ∧
        ((s.seq.fsm = .runHead ∧ ∃ r, storeRead s.store s.seq.pc.toNat = some r ∧
          decode r = .instr .timerBegin) ∨
        (s.seq.fsm = .idle ∧ s.seq.execMode = .immediate ∧ ∃ r count,
          s.env.port = some (.submit r count) ∧ decode r = .instr .timerBegin))))

/-- The Program Store and LOOP_INIT (R51, R63, R74): they are written only by reset and by a SUBMIT accepted in IDLE
in RECORDING mode; the length counters also by PROGRAM. In particular no run writes them. -/
def Obligations.StoreIsWrittenOnlyInRecording : Prop :=
  ∀ s t : State, step s = .next t →
    ((∃ a, t.store.opc.read a ≠ s.store.opc.read a ∨ t.store.arena.read a ≠ s.store.arena.read a) ∨
      (∃ k : Fin 10, (t.store.slots[k.val]).init ≠ (s.store.slots[k.val]).init) →
      nextMove s = .reset ∨ (s.seq.fsm = .idle ∧ s.seq.execMode = .recording ∧
        ∃ r count, s.env.port = some (.submit r count))) ∧
    (t.store.stepCount ≠ s.store.stepCount ∨ t.store.loopCount ≠ s.store.loopCount →
      nextMove s = .reset ∨ (s.seq.fsm = .idle ∧ (s.env.port = some .program ∨
        (s.seq.execMode = .recording ∧ ∃ r count, s.env.port = some (.submit r count)))))

/-- Responses (R204): a step that ends an accepted command (it leaves the FSM in IDLE, having accepted a command or been
in a run or an immediate step) makes one response, and every other step makes none. A reset ends a command with no
response (R240), so it is not among these steps. -/
def Obligations.EachCommandGetsOneResponse : Prop :=
  ∀ s t : State, step s = .next t → nextMove s ≠ .reset →
    let accepts := nextMove s = .fsm ∧ s.seq.fsm = .idle ∧ s.env.port ≠ none
    let busy := s.seq.fsm = .runHead ∨ s.seq.fsm = .opWait
    ((accepts ∨ busy) ∧ t.seq.fsm = .idle → responses t.env.trace = responses s.env.trace + 1) ∧
    (¬((accepts ∨ busy) ∧ t.seq.fsm = .idle) → responses t.env.trace = responses s.env.trace)

/-- No step takes an output event back (R71(d)), and no step changes a parameter (log 4: the parameters of R15 are
fixed for the machine); the one trace of all events is log 18. -/
def Obligations.OutputsStandAndParametersStay : Prop :=
  ∀ s t : State, step s = .next t → s.env.trace <+: t.env.trace ∧ t.cfg = s.cfg

/-- The machine's invariant (R22, R28, R30, R32, R40, R42, R45, R53, R128) holds after reset. -/
def Obligations.InvariantHoldsAtReset : Prop := Inv State.reset

/-- Every step, of any agent and from any state with the invariant, keeps the machine's invariant. -/
def Obligations.StepKeepsTheInvariant : Prop :=
  ∀ s t : State, Inv s → step s = .next t → Inv t

/-- A front-end that keeps its pin duty never stops the block (R70, R201): from a state with the invariant in which
everything submitted keeps the duty, every step answers a next state, and the duty is kept where the next move keeps
it. -/
def Obligations.DutifulFrontEndNeverStopsTheBlock : Prop :=
  ∀ s : State, Inv s → PinDuty s → ∃ t, step s = .next t ∧ (MoveDuty s → PinDuty t)

/-- A block fed only through the port with CG_OOR = END_PASS never enters FAULT (R201, R209). -/
def Obligations.PortFedBlockNeverFaults : Prop :=
  ∀ s t : State, Inv s → s.cfg.cgOor = .endPass → s.seq.fsm ≠ .fault → step s = .next t →
    t.seq.fsm ≠ .fault

/-- The Loop count property (R191, R194): with its slot inactive and its initial count N, each of the first N
dispatches of a Loop jumps to its target, and the (N + 1)-th falls through and leaves the slot inactive. Before each
dispatch stands whatever the loop's body and the other agents do to the machine, provided it leaves the slot,
LOOP_COUNT and CTX alone, as a body without a Loop that shares the slot does (R194). That the body is the steps
S..L−1 is not part of it. -/
def Obligations.LoopJumpsExactlyNTimes : Prop :=
  ∀ (a k : Byte) (s : State) (body : Nat → State → State) (h : k.toNat < 10),
    k.toNat < s.store.loopCount.toNat → s.seq.ctx = .run → (s.store.slots[k.toNat]).act = false →
    (∀ m u, (body m u).store.slots[k.toNat] = u.store.slots[k.toNat] ∧
      (body m u).store.loopCount = u.store.loopCount ∧ (body m u).seq.ctx = u.seq.ctx) →
    let n := (s.store.slots[k.toNat]).init.toNat
    (∀ m, 0 < m → m ≤ n → ∃ t, loopVisits a k body m s = .next t ∧ t.seq.pc = a.setWidth 9 ∧
      (t.store.slots[k.toNat]).act = true ∧ (t.store.slots[k.toNat]).cur.toNat = n - m) ∧
    (∃ u t, loopVisits a k body n s = .next u ∧ exec (.loop a k) (body n u) = .next t ∧
      t.seq.pc = (body n u).seq.pc ∧ (t.store.slots[k.toNat]).act = false)
end

