-- ==== Sys2Proof/Laws/Decode.lean ====
section
/-! SUPPORT. The fields of a record built from its bytes (30_encoding.md R82), and of a 16-bit operand (R64); which
records decode to an instruction. -/

namespace Sys2Proof

@[simp] theorem recTag_mkRec (t a b c d : Byte) : recTag (mkRec t a b c d) = t := by
  apply BitVec.eq_of_getLsbD_eq
  intro i hi
  simp only [recTag, mkRec, BitVec.getLsbD_extractLsb', BitVec.getLsbD_append]
  rcases i with _ | _ | _ | _ | _ | _ | _ | _ | i <;> first | rfl | (exfalso; omega)

@[simp] theorem recOb3_mkRec (t a b c d : Byte) : recOb3 (mkRec t a b c d) = a := by
  apply BitVec.eq_of_getLsbD_eq
  intro i hi
  simp only [recOb3, mkRec, BitVec.getLsbD_extractLsb', BitVec.getLsbD_append]
  rcases i with _ | _ | _ | _ | _ | _ | _ | _ | i <;> first | rfl | (exfalso; omega)

@[simp] theorem recOb2_mkRec (t a b c d : Byte) : recOb2 (mkRec t a b c d) = b := by
  apply BitVec.eq_of_getLsbD_eq
  intro i hi
  simp only [recOb2, mkRec, BitVec.getLsbD_extractLsb', BitVec.getLsbD_append]
  rcases i with _ | _ | _ | _ | _ | _ | _ | _ | i <;> first | rfl | (exfalso; omega)

@[simp] theorem recOb1_mkRec (t a b c d : Byte) : recOb1 (mkRec t a b c d) = c := by
  apply BitVec.eq_of_getLsbD_eq
  intro i hi
  simp only [recOb1, mkRec, BitVec.getLsbD_extractLsb', BitVec.getLsbD_append]
  rcases i with _ | _ | _ | _ | _ | _ | _ | _ | i <;> first | rfl | (exfalso; omega)

@[simp] theorem recOb0_mkRec (t a b c d : Byte) : recOb0 (mkRec t a b c d) = d := by
  apply BitVec.eq_of_getLsbD_eq
  intro i hi
  simp only [recOb0, mkRec, BitVec.getLsbD_extractLsb', BitVec.getLsbD_append]
  rcases i with _ | _ | _ | _ | _ | _ | _ | _ | i <;> first | rfl | (exfalso; omega)

/-- A record is its five bytes. -/
theorem mkRec_fields (r : Rec) : mkRec (recTag r) (recOb3 r) (recOb2 r) (recOb1 r) (recOb0 r) = r := by
  apply BitVec.eq_of_getLsbD_eq
  intro i hi
  simp only [recTag, recOb3, recOb2, recOb1, recOb0, mkRec, BitVec.getLsbD_extractLsb',
    BitVec.getLsbD_append]
  repeat' split
  all_goals
    rw [decide_eq_true (by omega), Bool.true_and]
    congr 1
    omega

@[simp] theorem loByte_hiByte (v : Word16) : (hiByte v ++ loByte v : Word16) = v := by
  apply BitVec.eq_of_getLsbD_eq
  intro i hi
  simp only [hiByte, loByte, BitVec.getLsbD_extractLsb', BitVec.getLsbD_append]
  split
  all_goals
    rw [decide_eq_true (by omega), Bool.true_and]
    congr 1
    omega

/-- The value of layout V is OB1 ‖ OB0 (R85). -/
theorem recV_bytes (r : Rec) : recV r = recOb1 r ++ recOb0 r := by
  apply BitVec.eq_of_getLsbD_eq
  intro i hi
  simp only [recV, recOb1, recOb0, BitVec.getLsbD_extractLsb', BitVec.getLsbD_append]
  rw [decide_eq_true hi, Bool.true_and]
  split
  · rw [decide_eq_true (by omega), Bool.true_and]
  · rw [decide_eq_true (by omega), Bool.true_and]
    congr 1
    omega

/-- The value of layout PV is OB2 ‖ OB1 (R86). -/
theorem recPv_bytes (r : Rec) : recPv r = recOb2 r ++ recOb1 r := by
  apply BitVec.eq_of_getLsbD_eq
  intro i hi
  simp only [recPv, recOb2, recOb1, BitVec.getLsbD_extractLsb', BitVec.getLsbD_append]
  rw [decide_eq_true hi, Bool.true_and]
  split
  · rw [decide_eq_true (by omega), Bool.true_and]
  · rw [decide_eq_true (by omega), Bool.true_and]
    congr 1
    omega

/-- A tag up to 0x16 spells an opcode (R88, R90). -/
theorem decode_of_defined {r : Rec} (h : (recTag r).toNat ≤ 0x16) : ∃ i, decode r = .instr i := by
  unfold decode
  generalize (recTag r).toNat = n at h
  interval_cases n <;> exact ⟨_, rfl⟩

/-- Only a Loop step decodes to a Loop, with its target and slot bytes (R87). -/
theorem decode_loop {r : Rec} {t k : Byte} (h : decode r = .instr (.loop t k)) :
    recTag r = 0x14#8 ∧ t = recOb0 r ∧ k = recOb1 r := by
  unfold decode at h
  split at h <;> simp at h
  rename_i hk
  exact ⟨BitVec.eq_of_toNat_eq hk, h.1.symm, h.2.symm⟩

end Sys2Proof
end

