-- ==== Sys2Proof/Laws/State.lean ====
section
/-! SUPPORT. One lemma per field of State and group update, true by rfl, and extensionality of State by its groups. -/

namespace Sys2Proof.Machine

@[simp] theorem State.withSeq_seq (s : State) (v : Seq) : (s.withSeq v).seq = v := rfl
@[simp] theorem State.withSeq_store (s : State) (v : Seq) : (s.withSeq v).store = s.store := rfl
@[simp] theorem State.withSeq_timer (s : State) (v : Seq) : (s.withSeq v).timer = s.timer := rfl
@[simp] theorem State.withSeq_env (s : State) (v : Seq) : (s.withSeq v).env = s.env := rfl
@[simp] theorem State.withSeq_sched (s : State) (v : Seq) : (s.withSeq v).sched = s.sched := rfl
@[simp] theorem State.withSeq_cfg (s : State) (v : Seq) : (s.withSeq v).cfg = s.cfg := rfl

@[simp] theorem State.withStore_seq (s : State) (v : Store) : (s.withStore v).seq = s.seq := rfl
@[simp] theorem State.withStore_store (s : State) (v : Store) : (s.withStore v).store = v := rfl
@[simp] theorem State.withStore_timer (s : State) (v : Store) : (s.withStore v).timer = s.timer := rfl
@[simp] theorem State.withStore_env (s : State) (v : Store) : (s.withStore v).env = s.env := rfl
@[simp] theorem State.withStore_sched (s : State) (v : Store) : (s.withStore v).sched = s.sched := rfl
@[simp] theorem State.withStore_cfg (s : State) (v : Store) : (s.withStore v).cfg = s.cfg := rfl

@[simp] theorem State.withTimer_seq (s : State) (v : Timer) : (s.withTimer v).seq = s.seq := rfl
@[simp] theorem State.withTimer_store (s : State) (v : Timer) : (s.withTimer v).store = s.store := rfl
@[simp] theorem State.withTimer_timer (s : State) (v : Timer) : (s.withTimer v).timer = v := rfl
@[simp] theorem State.withTimer_env (s : State) (v : Timer) : (s.withTimer v).env = s.env := rfl
@[simp] theorem State.withTimer_sched (s : State) (v : Timer) : (s.withTimer v).sched = s.sched := rfl
@[simp] theorem State.withTimer_cfg (s : State) (v : Timer) : (s.withTimer v).cfg = s.cfg := rfl

@[simp] theorem State.withEnv_seq (s : State) (v : Env) : (s.withEnv v).seq = s.seq := rfl
@[simp] theorem State.withEnv_store (s : State) (v : Env) : (s.withEnv v).store = s.store := rfl
@[simp] theorem State.withEnv_timer (s : State) (v : Env) : (s.withEnv v).timer = s.timer := rfl
@[simp] theorem State.withEnv_env (s : State) (v : Env) : (s.withEnv v).env = v := rfl
@[simp] theorem State.withEnv_sched (s : State) (v : Env) : (s.withEnv v).sched = s.sched := rfl
@[simp] theorem State.withEnv_cfg (s : State) (v : Env) : (s.withEnv v).cfg = s.cfg := rfl

@[simp] theorem State.withSched_seq (s : State) (v : Sched) : (s.withSched v).seq = s.seq := rfl
@[simp] theorem State.withSched_store (s : State) (v : Sched) : (s.withSched v).store = s.store := rfl
@[simp] theorem State.withSched_timer (s : State) (v : Sched) : (s.withSched v).timer = s.timer := rfl
@[simp] theorem State.withSched_env (s : State) (v : Sched) : (s.withSched v).env = s.env := rfl
@[simp] theorem State.withSched_sched (s : State) (v : Sched) : (s.withSched v).sched = v := rfl
@[simp] theorem State.withSched_cfg (s : State) (v : Sched) : (s.withSched v).cfg = s.cfg := rfl

theorem State.ext_groups {s t : State} (h1 : s.seq = t.seq) (h2 : s.store = t.store) (h3 : s.timer = t.timer)
    (h4 : s.env = t.env) (h5 : s.sched = t.sched) (h6 : s.cfg = t.cfg) : s = t := by
  cases s
  cases t
  simp_all

/-- Two results are the same next state exactly when the states are. -/
@[simp] theorem next_inj {s t : State} : (Host.Outcome.next s : Result) = .next t ↔ s = t := by
  constructor
  · intro h
    injection h
  · rintro rfl
    rfl

end Sys2Proof.Machine
end

