-- ==== Sys2Proof/Laws/Memory.lean ====
section
/-! SUPPORT. Read after write, and that every memory operation keeps the canonical form. -/

namespace Sys2Proof.Machine

@[simp] theorem Memory.read_write_same (m : Memory) (a : Nat) (b : Byte) : (m.write a b).read a = some b := by
  induction m with
  | nil => simp [Memory.write, Memory.read]
  | cons c m ih =>
    obtain ⟨k, v⟩ := c
    unfold Memory.write
    split
    · simp [Memory.read]
    · split
      · simp [Memory.read]
      · rename_i h1 h2
        simp [Memory.read, h2, ih]

theorem Memory.read_write_other (m : Memory) {a a' : Nat} (b : Byte) (h : a' ≠ a) :
    (m.write a b).read a' = m.read a' := by
  induction m with
  | nil => simp [Memory.write, Memory.read, h]
  | cons c m ih =>
    obtain ⟨k, v⟩ := c
    unfold Memory.write
    split
    · simp [Memory.read, h]
    · split
      · rename_i h1 h2
        subst h2
        simp [Memory.read, h]
      · simp only [Memory.read, ih]

/-- Every listed address after a write is the written one or was listed before. -/
theorem Memory.mem_write {m : Memory} {a : Nat} {b : Byte} {c : Host.Cell} (h : c ∈ m.write a b) :
    c.1 = a ∨ c ∈ m := by
  induction m with
  | nil =>
    simp only [Memory.write, List.mem_singleton] at h
    exact .inl (by rw [h])
  | cons d m ih =>
    obtain ⟨k, v⟩ := d
    unfold Memory.write at h
    split at h
    · rcases List.mem_cons.1 h with rfl | h
      · exact .inl rfl
      · exact .inr h
    · split at h
      · rcases List.mem_cons.1 h with rfl | h
        · exact .inl rfl
        · exact .inr (List.mem_cons_of_mem _ h)
      · rcases List.mem_cons.1 h with rfl | h
        · exact .inr List.mem_cons_self
        · exact (ih h).imp_right (List.mem_cons_of_mem _)

theorem Memory.wf_nil : Memory.wf [] := List.Pairwise.nil

theorem Memory.wf_write {m : Memory} (hm : m.wf) (a : Nat) (b : Byte) : (m.write a b).wf := by
  induction m with
  | nil => simp [Memory.write]
  | cons c m ih =>
    obtain ⟨k, v⟩ := c
    obtain ⟨hk, hm'⟩ := List.pairwise_cons.1 hm
    unfold Memory.write
    split
    · rename_i h
      refine List.pairwise_cons.2 ⟨fun d hd => ?_, hm⟩
      rcases List.mem_cons.1 hd with rfl | hd
      · exact h
      · exact Nat.lt_trans h (hk d hd)
    · split
      · rename_i h1 h2
        subst h2
        exact List.pairwise_cons.2 ⟨hk, hm'⟩
      · rename_i h1 h2
        refine List.pairwise_cons.2 ⟨fun d hd => ?_, ih hm'⟩
        rcases Memory.mem_write hd with h | h
        · simp only [h]
          omega
        · exact hk d h

/-! ### The store -/

theorem storeWrite_opc_wf {m : Store} (h : m.opc.wf) (i : Nat) (r : Rec) : (storeWrite m i r).opc.wf :=
  Memory.wf_write h _ _

theorem storeWrite_arena_wf {m : Store} (h : m.arena.wf) (i : Nat) (r : Rec) : (storeWrite m i r).arena.wf :=
  Memory.wf_write (Memory.wf_write (Memory.wf_write (Memory.wf_write h _ _) _ _) _ _) _ _

@[simp] theorem storeWrite_stepCount (m : Store) (i : Nat) (r : Rec) :
    (storeWrite m i r).stepCount = m.stepCount := rfl

@[simp] theorem storeWrite_loopCount (m : Store) (i : Nat) (r : Rec) :
    (storeWrite m i r).loopCount = m.loopCount := rfl

@[simp] theorem storeWrite_slots (m : Store) (i : Nat) (r : Rec) : (storeWrite m i r).slots = m.slots := rfl

/-- A write of step i leaves the tag of every other step alone. -/
theorem storeWrite_opc_other (m : Store) {i a : Nat} (r : Rec) (h : a ≠ i) :
    (storeWrite m i r).opc.read a = m.opc.read a := Memory.read_write_other _ _ h

/-- A write of step i leaves every arena byte outside its four alone. -/
theorem storeWrite_arena_other (m : Store) {i a : Nat} (r : Rec)
    (h : ∀ k < 4, a ≠ arenaAddr i k) : (storeWrite m i r).arena.read a = m.arena.read a := by
  unfold storeWrite
  simp only
  rw [Memory.read_write_other _ _ (h 3 (by omega)), Memory.read_write_other _ _ (h 2 (by omega)),
    Memory.read_write_other _ _ (h 1 (by omega)), Memory.read_write_other _ _ (h 0 (by omega))]

@[simp] theorem clearActive_stepCount (m : Store) : (clearActive m).stepCount = m.stepCount := rfl
@[simp] theorem clearActive_loopCount (m : Store) : (clearActive m).loopCount = m.loopCount := rfl
@[simp] theorem clearActive_opc (m : Store) : (clearActive m).opc = m.opc := rfl
@[simp] theorem clearActive_arena (m : Store) : (clearActive m).arena = m.arena := rfl

@[simp] theorem clearActive_slot (m : Store) (k : Nat) (h : k < 10) :
    (clearActive m).slots[k] = { m.slots[k] with act := false } := by
  simp [clearActive]

/-- StoreRead after a StoreWrite of the same step gives the record written (R62). -/
theorem storeRead_storeWrite_same (m : Store) (i : Nat) (r : Rec) : storeRead (storeWrite m i r) i = some r := by
  simp [storeRead, storeWrite, arenaAddr, Memory.read_write_other, mkRec_fields]

/-- A StoreWrite of step i leaves every other step's record alone (R62). -/
theorem storeRead_storeWrite_other (m : Store) {i j : Nat} (r : Rec) (h : j ≠ i) :
    storeRead (storeWrite m i r) j = storeRead m j := by
  have ha (k : Nat) (hk : k < 4) :
      (storeWrite m i r).arena.read (arenaAddr j k) = m.arena.read (arenaAddr j k) := by
    refine storeWrite_arena_other m r fun k' hk' => ?_
    simp only [arenaAddr, Config.operandBytes]
    omega
  simp only [storeRead, storeWrite_opc_other m r h, ha 0 (by omega), ha 1 (by omega), ha 2 (by omega),
    ha 3 (by omega)]

end Sys2Proof.Machine
end

