-- ==== Sys2Proof/Laws/Ops.lean ====
section
/-! SUPPORT. For each shared operation, what it does and what it leaves alone. -/

namespace Sys2Proof.Machine

/-! ### emit and respond: the trace only -/

@[simp] theorem emit_seq (e : OutEvent) (s : State) : (emit e s).seq = s.seq := rfl
@[simp] theorem emit_store (e : OutEvent) (s : State) : (emit e s).store = s.store := rfl
@[simp] theorem emit_timer (e : OutEvent) (s : State) : (emit e s).timer = s.timer := rfl
@[simp] theorem emit_sched (e : OutEvent) (s : State) : (emit e s).sched = s.sched := rfl
@[simp] theorem emit_cfg (e : OutEvent) (s : State) : (emit e s).cfg = s.cfg := rfl
@[simp] theorem emit_env (e : OutEvent) (s : State) :
    (emit e s).env = { s.env with trace := s.env.trace ++ [e] } := rfl

@[simp] theorem respond_seq (r : Response) (s : State) : (respond r s).seq = s.seq := rfl
@[simp] theorem respond_store (r : Response) (s : State) : (respond r s).store = s.store := rfl
@[simp] theorem respond_timer (r : Response) (s : State) : (respond r s).timer = s.timer := rfl
@[simp] theorem respond_sched (r : Response) (s : State) : (respond r s).sched = s.sched := rfl
@[simp] theorem respond_cfg (r : Response) (s : State) : (respond r s).cfg = s.cfg := rfl
@[simp] theorem respond_env (r : Response) (s : State) :
    (respond r s).env = { s.env with trace := s.env.trace ++ [.resp r] } := rfl

/-! ### complete (R121, R122) -/

@[simp] theorem complete_store (s : State) : (complete s).store = s.store := by
  unfold complete
  split <;> rfl

@[simp] theorem complete_timer (s : State) : (complete s).timer = s.timer := by
  unfold complete
  split <;> rfl

@[simp] theorem complete_sched (s : State) : (complete s).sched = s.sched := by
  unfold complete
  split <;> rfl

@[simp] theorem complete_cfg (s : State) : (complete s).cfg = s.cfg := by
  unfold complete
  split <;> rfl

theorem complete_run {s : State} (h : s.seq.ctx = .run) :
    complete s = s.withSeq { s.seq with opw := .none, fsm := .runHead } := by
  unfold complete
  rw [h]

theorem complete_imm {s : State} (h : s.seq.ctx = .imm) :
    complete s = respond .ok (s.withSeq
      { s.seq with opw := .none, watchQuit := false, ctx := .run, fsm := .idle }) := by
  unfold complete
  rw [h]
  rfl

/-- complete() in both contexts, by fields: what it writes in the sequencer and the trace. -/
theorem complete_cases (s : State) :
    (s.seq.ctx = .run ∧ (complete s).seq = { s.seq with opw := .none, fsm := .runHead } ∧
      (complete s).env = s.env) ∨
    (s.seq.ctx = .imm ∧
      (complete s).seq = { s.seq with opw := .none, watchQuit := false, ctx := .run, fsm := .idle } ∧
      (complete s).env = { s.env with trace := s.env.trace ++ [.resp .ok] }) := by
  cases h : s.seq.ctx
  · exact .inl ⟨rfl, by rw [complete_run h]; rfl, by rw [complete_run h]; rfl⟩
  · exact .inr ⟨rfl, by rw [complete_imm h]; rfl, by rw [complete_imm h]; rfl⟩

/-! ### Waits, output and jumps: the sequencer only -/

@[simp] theorem enterWait_seq (w : Opw) (s : State) :
    (enterWait w s).seq = { s.seq with opw := w, fsm := .opWait } := rfl
@[simp] theorem enterWait_store (w : Opw) (s : State) : (enterWait w s).store = s.store := rfl
@[simp] theorem enterWait_timer (w : Opw) (s : State) : (enterWait w s).timer = s.timer := rfl
@[simp] theorem enterWait_env (w : Opw) (s : State) : (enterWait w s).env = s.env := rfl
@[simp] theorem enterWait_sched (w : Opw) (s : State) : (enterWait w s).sched = s.sched := rfl
@[simp] theorem enterWait_cfg (w : Opw) (s : State) : (enterWait w s).cfg = s.cfg := rfl

@[simp] theorem emitBytes_seq (bs : List Byte) (s : State) :
    (emitBytes bs s).seq = { s.seq with outq := bs, opw := .tx, fsm := .opWait } := rfl
@[simp] theorem emitBytes_store (bs : List Byte) (s : State) : (emitBytes bs s).store = s.store := rfl
@[simp] theorem emitBytes_timer (bs : List Byte) (s : State) : (emitBytes bs s).timer = s.timer := rfl
@[simp] theorem emitBytes_env (bs : List Byte) (s : State) : (emitBytes bs s).env = s.env := rfl
@[simp] theorem emitBytes_sched (bs : List Byte) (s : State) : (emitBytes bs s).sched = s.sched := rfl
@[simp] theorem emitBytes_cfg (bs : List Byte) (s : State) : (emitBytes bs s).cfg = s.cfg := rfl

@[simp] theorem startWait_seq (l d : Bool) (s : State) :
    (startWait l d s).seq =
      { s.seq with lvl := l, deb := debFlag d s.seq.wt, opw := .level, fsm := .opWait } := rfl
@[simp] theorem startWait_store (l d : Bool) (s : State) : (startWait l d s).store = s.store := rfl
@[simp] theorem startWait_timer (l d : Bool) (s : State) : (startWait l d s).timer = s.timer := rfl
@[simp] theorem startWait_env (l d : Bool) (s : State) : (startWait l d s).env = s.env := rfl
@[simp] theorem startWait_sched (l d : Bool) (s : State) : (startWait l d s).sched = s.sched := rfl
@[simp] theorem startWait_cfg (l d : Bool) (s : State) : (startWait l d s).cfg = s.cfg := rfl

@[simp] theorem jump_seq (t : Byte) (s : State) : (jump t s).seq = { s.seq with pc := pcOf t } := rfl
@[simp] theorem jump_store (t : Byte) (s : State) : (jump t s).store = s.store := rfl
@[simp] theorem jump_timer (t : Byte) (s : State) : (jump t s).timer = s.timer := rfl
@[simp] theorem jump_env (t : Byte) (s : State) : (jump t s).env = s.env := rfl
@[simp] theorem jump_sched (t : Byte) (s : State) : (jump t s).sched = s.sched := rfl
@[simp] theorem jump_cfg (t : Byte) (s : State) : (jump t s).cfg = s.cfg := rfl

@[simp] theorem raiseFault_seq (k : FaultKind) (s : State) :
    (raiseFault k s).seq =
      { s.seq with faultKind := k, fsm := .fault, opw := .none, watchQuit := false } := rfl
@[simp] theorem raiseFault_store (k : FaultKind) (s : State) : (raiseFault k s).store = s.store := rfl
@[simp] theorem raiseFault_timer (k : FaultKind) (s : State) : (raiseFault k s).timer = s.timer := rfl
@[simp] theorem raiseFault_env (k : FaultKind) (s : State) : (raiseFault k s).env = s.env := rfl
@[simp] theorem raiseFault_sched (k : FaultKind) (s : State) : (raiseFault k s).sched = s.sched := rfl
@[simp] theorem raiseFault_cfg (k : FaultKind) (s : State) : (raiseFault k s).cfg = s.cfg := rfl

/-! ### finish_run and finish_imm -/

@[simp] theorem finishRun_seq (c : Bool) (s : State) : (finishRun c s).seq =
    { s.seq with watchQuit := false, lastCancelled := c, ctx := .run, fsm := .idle } := rfl
@[simp] theorem finishRun_store (c : Bool) (s : State) : (finishRun c s).store = s.store := rfl
@[simp] theorem finishRun_timer (c : Bool) (s : State) : (finishRun c s).timer = s.timer := rfl
@[simp] theorem finishRun_env (c : Bool) (s : State) :
    (finishRun c s).env = { s.env with trace := s.env.trace ++ [.resp (.done c)] } := rfl
@[simp] theorem finishRun_sched (c : Bool) (s : State) : (finishRun c s).sched = s.sched := rfl
@[simp] theorem finishRun_cfg (c : Bool) (s : State) : (finishRun c s).cfg = s.cfg := rfl

@[simp] theorem finishImm_seq (s : State) :
    (finishImm s).seq = { s.seq with watchQuit := false, ctx := .run, fsm := .idle } := rfl
@[simp] theorem finishImm_store (s : State) : (finishImm s).store = s.store := rfl
@[simp] theorem finishImm_timer (s : State) : (finishImm s).timer = s.timer := rfl
@[simp] theorem finishImm_env (s : State) :
    (finishImm s).env = { s.env with trace := s.env.trace ++ [.resp .ok] } := rfl
@[simp] theorem finishImm_sched (s : State) : (finishImm s).sched = s.sched := rfl
@[simp] theorem finishImm_cfg (s : State) : (finishImm s).cfg = s.cfg := rfl

/-! ### The timer primitives -/

@[simp] theorem armOneshot_seq (w : Word16) (s : State) : (armOneshot w s).seq = s.seq := rfl
@[simp] theorem armOneshot_store (w : Word16) (s : State) : (armOneshot w s).store = s.store := rfl
@[simp] theorem armOneshot_timer (w : Word16) (s : State) : (armOneshot w s).timer = s.timer.arm w := rfl
@[simp] theorem armOneshot_env (w : Word16) (s : State) : (armOneshot w s).env = s.env := rfl
@[simp] theorem armOneshot_sched (w : Word16) (s : State) : (armOneshot w s).sched = s.sched := rfl
@[simp] theorem armOneshot_cfg (w : Word16) (s : State) : (armOneshot w s).cfg = s.cfg := rfl

@[simp] theorem restore_seq (s : State) : (restore s).seq = s.seq := rfl
@[simp] theorem restore_store (s : State) : (restore s).store = s.store := rfl
@[simp] theorem restore_timer (s : State) :
    (restore s).timer = s.timer.restore s.cfg.ticksPerMs := rfl
@[simp] theorem restore_env (s : State) : (restore s).env = s.env := rfl
@[simp] theorem restore_sched (s : State) : (restore s).sched = s.sched := rfl
@[simp] theorem restore_cfg (s : State) : (restore s).cfg = s.cfg := rfl

@[simp] theorem Timer.arm_tmode (w : Word16) (t : Timer) : (t.arm w).tmode = .os := rfl
@[simp] theorem Timer.arm_cnt (w : Word16) (t : Timer) : (t.arm w).cnt = 0#16 := rfl
@[simp] theorem Timer.arm_cmp (w : Word16) (t : Timer) : (t.arm w).cmp = w := rfl
@[simp] theorem Timer.arm_osDone (w : Word16) (t : Timer) : (t.arm w).osDone = false := rfl
@[simp] theorem Timer.arm_msCount (w : Word16) (t : Timer) : (t.arm w).msCount = t.msCount := rfl
@[simp] theorem Timer.arm_msTarget (w : Word16) (t : Timer) : (t.arm w).msTarget = t.msTarget := rfl
@[simp] theorem Timer.arm_tick (w : Word16) (t : Timer) : (t.arm w).tick = t.tick := rfl
@[simp] theorem Timer.arm_svcEn (w : Word16) (t : Timer) : (t.arm w).svcEn = t.svcEn := rfl
@[simp] theorem Timer.arm_svcCnt (w : Word16) (t : Timer) : (t.arm w).svcCnt = t.svcCnt := rfl

theorem Timer.arm_phSave_ms {t : Timer} (w : Word16) (h : t.tmode = .ms) : (t.arm w).phSave = t.cnt := by
  simp [Timer.arm, h]

theorem Timer.arm_phSave_os {t : Timer} (w : Word16) (h : t.tmode = .os) : (t.arm w).phSave = t.phSave := by
  simp [Timer.arm, h]

@[simp] theorem setSvcEn_seq (b : Bool) (s : State) : (setSvcEn b s).seq = s.seq := rfl
@[simp] theorem setSvcEn_store (b : Bool) (s : State) : (setSvcEn b s).store = s.store := rfl
@[simp] theorem setSvcEn_timer (b : Bool) (s : State) :
    (setSvcEn b s).timer = { s.timer with svcEn := b } := rfl
@[simp] theorem setSvcEn_env (b : Bool) (s : State) : (setSvcEn b s).env = s.env := rfl
@[simp] theorem setSvcEn_sched (b : Bool) (s : State) : (setSvcEn b s).sched = s.sched := rfl
@[simp] theorem setSvcEn_cfg (b : Bool) (s : State) : (setSvcEn b s).cfg = s.cfg := rfl

/-! ### Interfaces -/

@[simp] theorem dropRx_seq (s : State) : (dropRx s).seq = s.seq := rfl
@[simp] theorem dropRx_store (s : State) : (dropRx s).store = s.store := rfl
@[simp] theorem dropRx_timer (s : State) : (dropRx s).timer = s.timer := rfl
@[simp] theorem dropRx_env (s : State) : (dropRx s).env = { s.env with rxq := s.env.rxq.tail } := rfl
@[simp] theorem dropRx_sched (s : State) : (dropRx s).sched = s.sched := rfl
@[simp] theorem dropRx_cfg (s : State) : (dropRx s).cfg = s.cfg := rfl

@[simp] theorem setWatch_seq (w : Bool) (s : State) :
    (setWatch w s).seq = { s.seq with watchQuit := w } := rfl
@[simp] theorem setWatch_store (w : Bool) (s : State) : (setWatch w s).store = s.store := rfl
@[simp] theorem setWatch_timer (w : Bool) (s : State) : (setWatch w s).timer = s.timer := rfl
@[simp] theorem setWatch_env (w : Bool) (s : State) : (setWatch w s).env = s.env := rfl
@[simp] theorem setWatch_sched (w : Bool) (s : State) : (setWatch w s).sched = s.sched := rfl
@[simp] theorem setWatch_cfg (w : Bool) (s : State) : (setWatch w s).cfg = s.cfg := rfl

@[simp] theorem noteQuit_seq (b : Byte) (s : State) : (noteQuit b s).seq =
    { s.seq with cancel := cancelAfter s.cfg.quitByte s.seq.cancel b } := rfl
@[simp] theorem noteQuit_store (b : Byte) (s : State) : (noteQuit b s).store = s.store := rfl
@[simp] theorem noteQuit_timer (b : Byte) (s : State) : (noteQuit b s).timer = s.timer := rfl
@[simp] theorem noteQuit_env (b : Byte) (s : State) : (noteQuit b s).env = s.env := rfl
@[simp] theorem noteQuit_sched (b : Byte) (s : State) : (noteQuit b s).sched = s.sched := rfl
@[simp] theorem noteQuit_cfg (b : Byte) (s : State) : (noteQuit b s).cfg = s.cfg := rfl

theorem hasPin_iff {c : Params} {p : Byte} : c.hasPin p = true ↔ p.toNat < c.pins.length := by
  simp [Params.hasPin]

/-- A pin with PWM is in the Pin Table. -/
theorem hasPin_of_hasPwm {c : Params} {p : Byte} (h : c.hasPwm p = true) : c.hasPin p = true := by
  unfold Params.hasPwm at h
  split at h
  · rename_i hd
    simp [Params.hasPin, hd]
  · cases h

/-- A pin with an analog channel is in the Pin Table. -/
theorem hasPin_of_hasAnalog {c : Params} {p : Byte} (h : c.hasAnalog p = true) : c.hasPin p = true := by
  unfold Params.hasAnalog at h
  split at h
  · rename_i hd
    simp [Params.hasPin, hd]
  · cases h

theorem pinRead_of_hasPin {p : Byte} {s : State} (h : s.cfg.hasPin p = true) :
    pinRead p s = some (s.env.levels[p.toNat]'p.isLt) := by
  simp [pinRead, h]

theorem pinRead_isSome {p : Byte} {s : State} {l : Bool} (h : pinRead p s = some l) :
    s.cfg.hasPin p = true := by
  unfold pinRead at h
  split at h
  · assumption
  · cases h

theorem withPinLevel_next {p : Byte} {s t : State} {k : Bool → State} :
    withPinLevel p s k = .next t ↔ ∃ l, pinRead p s = some l ∧ k l = t := by
  unfold withPinLevel
  split
  · rename_i l h
    simp [h]
  · rename_i h
    simp [h]

theorem drivePin_next {p : Byte} {m : PinMode} {s t : State} :
    drivePin p m s = .next t ↔ s.cfg.hasPin p = true ∧ complete (emit (.pinDrive p m) s) = t := by
  unfold drivePin
  split <;> simp_all

/-! ### The loop slot (R191) -/

theorem LoopSlot.next_jump {l : LoopSlot} (h : l.jumps = true) :
    l.next = { l.activate with cur := l.activate.cur - 1#16 } := by
  simp [LoopSlot.next, h]

theorem LoopSlot.next_fall {l : LoopSlot} (h : l.jumps = false) :
    l.next = { l.activate with act := false } := by
  simp [LoopSlot.next, h]

@[simp] theorem LoopSlot.activate_init (l : LoopSlot) : l.activate.init = l.init := by
  unfold LoopSlot.activate
  split <;> rfl

@[simp] theorem LoopSlot.next_init (l : LoopSlot) : l.next.init = l.init := by
  unfold LoopSlot.next
  split <;> simp

/-! ### The tick (R131–R139) -/

theorem drainCancel_eq (q : Byte) (c : Bool) (bs : List Byte) :
    drainCancel q c bs = (c || decide (q ∈ bs)) := by
  induction bs generalizing c with
  | nil => simp [drainCancel]
  | cons b bs ih =>
    rw [drainCancel, ih]
    by_cases h : b = q
    · subst h
      simp [cancelAfter]
    · have h' : ¬ q = b := fun e => h e.symm
      simp [cancelAfter, h, h']

@[simp] theorem drain_store (s : State) : (drain s).store = s.store := rfl
@[simp] theorem drain_timer (s : State) : (drain s).timer = s.timer := rfl
@[simp] theorem drain_sched (s : State) : (drain s).sched = s.sched := rfl
@[simp] theorem drain_cfg (s : State) : (drain s).cfg = s.cfg := rfl
@[simp] theorem drain_env (s : State) : (drain s).env = { s.env with rxq := [] } := rfl
@[simp] theorem drain_seq (s : State) : (drain s).seq =
    { s.seq with cancel := s.seq.cancel || decide (s.cfg.quitByte ∈ s.env.rxq) } := by
  simp [drain, drainCancel_eq]

@[simp] theorem serviceEvent_store (s : State) : (serviceEvent s).store = s.store := by
  unfold serviceEvent
  simp only
  split <;> rfl

@[simp] theorem serviceEvent_timer (s : State) : (serviceEvent s).timer = s.timer := by
  unfold serviceEvent
  simp only
  split <;> rfl

@[simp] theorem serviceEvent_sched (s : State) : (serviceEvent s).sched = s.sched := by
  unfold serviceEvent
  simp only
  split <;> rfl

@[simp] theorem serviceEvent_cfg (s : State) : (serviceEvent s).cfg = s.cfg := by
  unfold serviceEvent
  simp only
  split <;> rfl

/-- A service event writes CANCEL, RXQ and the trace alone (R138, R139). -/
theorem serviceEvent_seq (s : State) : (serviceEvent s).seq = { s.seq with
    cancel := s.seq.cancel || (s.seq.watchQuit && decide (s.cfg.quitByte ∈ s.env.rxq)) } := by
  cases h : s.seq.watchQuit
  · simp [serviceEvent, h]
    cases hs : s.seq
    simp_all
  · simp [serviceEvent, h]
    rfl

theorem serviceEvent_env (s : State) : (serviceEvent s).env = { s.env with
    trace := s.env.trace ++ [.service]
    rxq := if s.seq.watchQuit then [] else s.env.rxq } := by
  cases h : s.seq.watchQuit <;> simp [serviceEvent, h]

@[simp] theorem tick_store (s : State) : (tick s).store = s.store := by
  unfold tick
  simp only
  split <;> simp

@[simp] theorem tick_sched (s : State) : (tick s).sched = s.sched := by
  unfold tick
  simp only
  split <;> simp

@[simp] theorem tick_cfg (s : State) : (tick s).cfg = s.cfg := by
  unfold tick
  simp only
  split <;> simp

/-- The timer's registers after a tick do not depend on the rest of the machine (R131). -/
theorem tick_timer (s : State) :
    (tick s).timer = (s.timer.tickService s.cfg.svcPeriod).tickShared := by
  unfold tick
  simp only
  split <;> simp

/-- A tick writes CANCEL alone in the sequencer, and only in a service event (R50, R131). -/
theorem tick_seq (s : State) : (tick s).seq = { s.seq with
    cancel := s.seq.cancel || (s.timer.serviceDue s.cfg.svcPeriod && s.seq.watchQuit &&
      decide (s.cfg.quitByte ∈ s.env.rxq)) } := by
  cases h : s.timer.serviceDue s.cfg.svcPeriod
  · simp [tick, h]
  · simp [tick, h, serviceEvent_seq]
    rfl

theorem tick_env_quiet {s : State} (h : s.timer.serviceDue s.cfg.svcPeriod = false) :
    (tick s).env = s.env := by
  simp [tick, h]

theorem tick_env_service {s : State} (h : s.timer.serviceDue s.cfg.svcPeriod = true) :
    (tick s).env = { s.env with
      trace := s.env.trace ++ [.service]
      rxq := if s.seq.watchQuit then [] else s.env.rxq } := by
  simp [tick, h, serviceEvent_env]
  rfl

end Sys2Proof.Machine
end

