-- ==== Sys2Proof/Laws/Step.lean ====
section
/-! SUPPORT. What one step of the machine can be (one inversion lemma), and what the schedule does to the rest. -/

namespace Sys2Proof.Machine

@[simp] theorem payPoll_eq (s : State) : payPoll s = s.withSched { s.sched with pollOwed := false } := rfl

@[simp] theorem consume_seq (s : State) : (consume s).seq = s.seq := rfl
@[simp] theorem consume_store (s : State) : (consume s).store = s.store := rfl
@[simp] theorem consume_timer (s : State) : (consume s).timer = s.timer := rfl
@[simp] theorem consume_env (s : State) : (consume s).env = s.env := rfl
@[simp] theorem consume_sched (s : State) : (consume s).sched = s.sched.consume := rfl
@[simp] theorem consume_cfg (s : State) : (consume s).cfg = s.cfg := rfl

@[simp] theorem Sched.refill_pollOwed (d : Sched) : d.refill.pollOwed = d.pollOwed := by
  unfold Sched.refill
  split <;> rfl

@[simp] theorem Sched.consume_pollOwed (d : Sched) : d.consume.pollOwed = d.pollOwed := by
  simp [Sched.consume]

theorem Sched.refill_nil {d : Sched} (h : d.moves = []) :
    d.refill = { d with moves := fairMoves d.freeIdx, freeIdx := d.freeIdx + 1 } := by
  simp [Sched.refill, h]

theorem Sched.refill_cons {d : Sched} {m : Move} {ms : List Move} (h : d.moves = m :: ms) : d.refill = d := by
  simp [Sched.refill, h]

theorem fairMoves_ne_nil (n : Nat) : fairMoves n ≠ [] := by
  simp [fairMoves]

/-- There is always a move to make (R7). -/
theorem Sched.refill_moves_ne_nil (d : Sched) : d.refill.moves ≠ [] := by
  cases h : d.moves with
  | nil => simp [Sched.refill_nil h, fairMoves_ne_nil]
  | cons m ms => simp [Sched.refill_cons h, h]

theorem nextMove_cons {s : State} {m : Move} {ms : List Move} (h : s.sched.moves = m :: ms) :
    nextMove s = m := by
  simp [nextMove, Sched.refill_cons h, h]

theorem Sched.consume_cons {d : Sched} {m : Move} {ms : List Move} (h : d.moves = m :: ms) :
    d.consume = { d with moves := ms } := by
  simp [Sched.consume, Sched.refill_cons h, h]

theorem pollFirst_iff (s : State) : pollFirst s = true ↔
    nextMove s = .tick ∧ s.sched.pollOwed = true ∧ s.seq.fsm = .opWait := by
  simp [pollFirst, and_assoc]

/-- Every step is an FSM step in some schedule with no poll owed, or the next move of another agent (R7). -/
theorem step_cases {s t : State} (h : step s = .next t) :
    (∃ d : Sched, d.pollOwed = false ∧ (nextMove s = .fsm ∨ pollFirst s = true) ∧
      fsmTransition (s.withSched d) = .next t) ∨
    (nextMove s ≠ .fsm ∧ pollFirst s = false ∧ applyMove (nextMove s) (consume s) = .next t) := by
  unfold step at h
  split at h
  · rename_i hp
    exact .inl ⟨{ s.sched with pollOwed := false }, rfl, .inr hp, h⟩
  · rename_i hp
    by_cases hm : nextMove s = .fsm
    · rw [hm] at h
      exact .inl ⟨{ s.sched.consume with pollOwed := false }, rfl, .inl hm, h⟩
    · exact .inr ⟨hm, by simpa using hp, h⟩

/-- An FSM step by the FSM's state (R110, R115, R120, R127). -/
theorem fsmTransition_cases {s t : State} (h : fsmTransition s = .next t) :
    (s.seq.fsm = .idle ∧ idleStep s = .next t) ∨ (s.seq.fsm = .runHead ∧ headStep s = .next t) ∨
    (s.seq.fsm = .opWait ∧ poll s = .next t) ∨ (s.seq.fsm = .fault ∧ t = s) := by
  unfold fsmTransition at h
  split at h <;> rename_i hf
  · exact .inl ⟨hf, h⟩
  · exact .inr (.inl ⟨hf, h⟩)
  · exact .inr (.inr (.inl ⟨hf, h⟩))
  · exact .inr (.inr (.inr ⟨hf, (next_inj.1 h).symm⟩))

/-- A head step by what it finds (R115). -/
theorem headStep_cases {s t : State} (h : headStep s = .next t) :
    (s.seq.cancel = true ∧ t = finishRun true s) ∨
    (s.seq.cancel = false ∧ s.seq.pc.toNat < s.store.stepCount.toNat ∧
      ∃ r, storeRead s.store s.seq.pc.toNat = some r ∧ dispatch r (loadFetched r s) = .next t) ∨
    (s.seq.cancel = false ∧ s.store.stepCount.toNat ≤ s.seq.pc.toNat ∧ t = endPass s) := by
  unfold headStep at h
  split at h
  · rename_i hc
    exact .inl ⟨hc, (next_inj.1 h).symm⟩
  · rename_i hc
    have hc' : s.seq.cancel = false := by simpa using hc
    split at h
    · rename_i hp
      split at h
      · rename_i r hr
        exact .inr (.inl ⟨hc', hp, r, hr, h⟩)
      · cases h
    · rename_i hp
      exact .inr (.inr ⟨hc', Nat.le_of_not_lt hp, (next_inj.1 h).symm⟩)

/-- A dispatch runs the decoded instruction or raises Fault(ILLEGAL_TAG) (R117). -/
theorem dispatch_cases {r : Rec} {s t : State} (h : dispatch r s = .next t) :
    (∃ i, decode r = .instr i ∧ exec i s = .next t) ∨
    (∃ tag, decode r = .reserved tag ∧ t = raiseFault .illegalTag s) := by
  unfold dispatch at h
  split at h
  · rename_i i hd
    exact .inl ⟨i, hd, h⟩
  · rename_i tag hd
    exact .inr ⟨tag, hd, (next_inj.1 h).symm⟩

end Sys2Proof.Machine
end

