-- ==== Sys2Proof/Laws/Fair.lean ====
section
/-! SUPPORT. The schedule: which steps write it, and that in every run each agent's turn comes again and again
(40_engine.md R128, weak fairness; log 3). -/

namespace Sys2Proof.Machine

/-! ### The FSM writes no schedule -/

theorem withPinLevel_sched {p : Byte} {s t : State} {k : Bool → State}
    (hk : ∀ l, (k l).sched = s.sched) (h : withPinLevel p s k = .next t) : t.sched = s.sched := by
  obtain ⟨l, _, rfl⟩ := withPinLevel_next.1 h
  exact hk l

theorem drivePin_sched {p : Byte} {m : PinMode} {s t : State} (h : drivePin p m s = .next t) :
    t.sched = s.sched := by
  obtain ⟨_, rfl⟩ := drivePin_next.1 h
  simp

theorem exec_sched {i : Instr} {s t : State} (h : exec i s = .next t) : t.sched = s.sched := by
  cases i with
  | waitHigh p => cases next_inj.1 h; simp
  | waitLow p => cases next_inj.1 h; simp
  | waitChange p => exact withPinLevel_sched (fun _ => by simp) h
  | rawWaitHigh p => cases next_inj.1 h; simp
  | rawWaitLow p => cases next_inj.1 h; simp
  | rawWaitChange p => exact withPinLevel_sched (fun _ => by simp) h
  | setWaitTime v => cases next_inj.1 h; simp
  | delayMs v => cases next_inj.1 h; simp
  | delayUs v =>
    simp only [exec, execDelayUs] at h
    split at h <;> cases next_inj.1 h <;> simp
  | timerBegin => cases next_inj.1 h; simp
  | timerEnd => cases next_inj.1 h; simp
  | setPwm p v =>
    simp only [exec, execSetPwm] at h
    split at h
    · split at h
      · cases next_inj.1 h; simp
      · cases h
    · cases h
  | setHigh p => exact drivePin_sched h
  | setLow p => exact drivePin_sched h
  | setTristate p => exact drivePin_sched h
  | readDigital p => exact withPinLevel_sched (fun _ => by split <;> simp [emitLevel, armSteady]) h
  | readAnalog p =>
    simp only [exec, execReadAnalog] at h
    split at h
    · split at h
      · cases next_inj.1 h; simp
      · cases h
    · cases h
  | charTransmit b => cases next_inj.1 h; simp
  | charReceive => cases next_inj.1 h; simp
  | charGoto => cases next_inj.1 h; simp
  | loop a k =>
    simp only [exec, execLoop] at h
    split at h
    · cases next_inj.1 h; simp
    · split at h
      · cases next_inj.1 h
        split <;> simp
      · cases h
  | goto a => cases next_inj.1 h; simp
  | noop => cases next_inj.1 h; simp

theorem dispatch_sched {r : Rec} {s t : State} (h : dispatch r s = .next t) : t.sched = s.sched := by
  obtain ⟨i, _, he⟩ | ⟨_, _, rfl⟩ := dispatch_cases h
  · exact exec_sched he
  · simp

theorem poll_sched {s t : State} (h : poll s = .next t) : t.sched = s.sched := by
  unfold poll at h
  split at h
  · cases h
  · unfold pollLevel at h
    split at h
    · cases next_inj.1 h; simp
    · refine withPinLevel_sched (fun l => ?_) h
      unfold levelSampled
      split
      · split <;> simp
      · rfl
  · unfold pollSettle at h
    split at h
    · cases next_inj.1 h; simp
    · refine withPinLevel_sched (fun l => ?_) h
      unfold settleSampled
      split
      · split <;> simp
      · simp
  · unfold pollRsettle at h
    split at h
    · cases next_inj.1 h; simp
    · refine withPinLevel_sched (fun l => ?_) h
      unfold rsettleSampled
      split
      · split <;> simp [emitLevel]
      · simp [armSteady]
  · unfold pollDms at h
    split at h
    · cases next_inj.1 h; simp
    · split at h <;> cases next_inj.1 h <;> simp
  · unfold pollDus at h
    split at h <;> cases next_inj.1 h <;> simp
  · unfold pollCr at h
    split at h
    · cases next_inj.1 h; simp
    · split at h <;> cases next_inj.1 h <;> simp
  · unfold pollCg at h
    split at h
    · cases next_inj.1 h; simp
    · split at h
      · cases next_inj.1 h; simp
      · cases next_inj.1 h
        unfold charGotoByte
        split
        · simp
        · split <;> simp
  · unfold pollAdc at h
    split at h <;> cases next_inj.1 h <;> simp
  · unfold pollTx at h
    split at h
    · cases h
    · split at h
      · cases next_inj.1 h
        split <;> simp
      · cases next_inj.1 h; rfl

theorem acceptSubmit_sched {r : Rec} {count : Word16} {s t : State} (h : acceptSubmit r count s = .next t) :
    t.sched = s.sched := by
  unfold acceptSubmit at h
  split at h
  · split at h
    · cases next_inj.1 h; simp [append]
    · unfold immediate at h
      simp only at h
      split at h
      · cases next_inj.1 h; simp [loadImmediate]
      · simpa [loadImmediate] using dispatch_sched h
  · cases next_inj.1 h; simp

theorem accept_sched {c : Command} {s t : State} (h : accept c s = .next t) : t.sched = s.sched := by
  cases c with
  | program => cases next_inj.1 h; simp [acceptProgram]
  | finish => cases next_inj.1 h; simp [acceptEnd]
  | submit r count => exact acceptSubmit_sched h
  | run n =>
    cases next_inj.1 h
    unfold acceptRun
    simp only
    split <;> simp

theorem headStep_sched {s t : State} (h : headStep s = .next t) : t.sched = s.sched := by
  obtain ⟨_, rfl⟩ | ⟨_, _, r, _, hd⟩ | ⟨_, _, rfl⟩ := headStep_cases h
  · simp
  · simpa [loadFetched] using dispatch_sched hd
  · unfold endPass
    split <;> simp [nextPass]

/-- No step of the FSM writes the schedule. -/
theorem fsmTransition_sched {s t : State} (h : fsmTransition s = .next t) : t.sched = s.sched := by
  obtain ⟨_, hi⟩ | ⟨_, hh⟩ | ⟨_, hp⟩ | ⟨_, rfl⟩ := fsmTransition_cases h
  · unfold idleStep at hi
    split at hi
    · cases next_inj.1 hi; rfl
    · simpa using accept_sched hi
  · exact headStep_sched hh
  · exact poll_sched hp
  · rfl

/-! ### What one step does to the schedule -/

theorem fsmStep_sched {s t : State} (h : fsmStep s = .next t) :
    t.sched = { s.sched with pollOwed := false } := by
  simpa using fsmTransition_sched h

/-- A move writes nothing of the schedule but the poll owed. -/
theorem applyMove_sched {m : Move} {s t : State} (h : applyMove m s = .next t) :
    t.sched = { s.sched with pollOwed := t.sched.pollOwed } := by
  cases m with
  | fsm => rw [fsmStep_sched h]
  | tick => cases next_inj.1 h; simp [oweWhileWaiting]
  | rx b => cases next_inj.1 h; rfl
  | pinLevel p l => cases next_inj.1 h; rfl
  | txReady r => cases next_inj.1 h; rfl
  | adcFinish raw =>
    cases next_inj.1 h
    unfold finishConversion
    split <;> rfl
  | issue c =>
    cases next_inj.1 h
    unfold offer
    split <;> rfl
  | frontEndPop =>
    cases next_inj.1 h
    unfold frontEndPop
    split <;> rfl
  | reset => cases next_inj.1 h; rfl

/-- A step either makes the poll owed and keeps the next move, or makes the next move (R128). -/
theorem step_sched {s t : State} (h : step s = .next t) :
    (pollFirst s = true ∧ t.sched = { s.sched with pollOwed := false }) ∨
    (pollFirst s = false ∧ t.sched = { s.sched.consume with pollOwed := t.sched.pollOwed }) := by
  unfold step at h
  split at h
  · rename_i hp
    exact .inl ⟨hp, fsmStep_sched h⟩
  · rename_i hp
    exact .inr ⟨by simpa using hp, applyMove_sched h⟩

theorem pollFirst_paid {s : State} (h : s.sched.pollOwed = false) : pollFirst s = false := by
  simp [pollFirst, h]

theorem Sched.refill_paid (d : Sched) (b : Bool) :
    ({ d with pollOwed := b } : Sched).refill = { d.refill with pollOwed := b } := by
  cases h : d.moves with
  | nil => simp [Sched.refill, h]
  | cons m ms => simp [Sched.refill, h]

/-! ### Weak fairness -/

section Run

variable {run : Nat → State}

/-- In a run, the next move is made at once or after the one poll owed. -/
theorem next_move_is_made (hr : ∀ n, step (run n) = .next (run (n + 1))) (n : Nat) :
    ∃ m, n ≤ m ∧ pollFirst (run m) = false ∧ (run m).sched.refill.moves = (run n).sched.refill.moves ∧
      (run (m + 1)).sched.moves = (run n).sched.refill.moves.tail ∧
      (run (m + 1)).sched.freeIdx = (run n).sched.refill.freeIdx := by
  obtain ⟨_, hs⟩ | ⟨hp, hs⟩ := step_sched (hr n)
  · have hp : pollFirst (run (n + 1)) = false := pollFirst_paid (by rw [hs])
    have hf : (run (n + 1)).sched.refill = { (run n).sched.refill with pollOwed := false } := by
      rw [hs, Sched.refill_paid]
    obtain ⟨hp', _⟩ | ⟨_, ht⟩ := step_sched (hr (n + 1))
    · rw [hp] at hp'
      cases hp'
    · exact ⟨n + 1, Nat.le_succ n, hp, by rw [hf], by rw [ht, Sched.consume, hf], by rw [ht, Sched.consume, hf]⟩
  · exact ⟨n, Nat.le_refl n, hp, rfl, by rw [hs]; rfl, by rw [hs]; rfl⟩

/-- In a run, every list of moves is made to its last move, which is next before the list is empty. -/
theorem last_move_is_made (hr : ∀ n, step (run n) = .next (run (n + 1))) (l : List Move) :
    ∀ (n : Nat) (x : Move), (run n).sched.refill.moves = l ++ [x] →
      ∃ m, n ≤ m ∧ nextMove (run m) = x ∧ pollFirst (run m) = false ∧ (run (m + 1)).sched.moves = [] ∧
        (run (m + 1)).sched.freeIdx = (run n).sched.refill.freeIdx := by
  induction l with
  | nil =>
    intro n x h
    obtain ⟨m, hm, hp, hv, ht, hi⟩ := next_move_is_made hr n
    exact ⟨m, hm, by simp [nextMove, hv, h], hp, by simp [ht, h], hi⟩
  | cons y l ih =>
    intro n x h
    obtain ⟨m, hm, _, _, ht, hi⟩ := next_move_is_made hr n
    have hf : (run (m + 1)).sched.refill = (run (m + 1)).sched := by
      cases hl : (run (m + 1)).sched.moves with
      | nil => simp [ht, h] at hl
      | cons z zs => exact Sched.refill_cons hl
    obtain ⟨k, hk, hrest⟩ := ih (m + 1) x (by rw [hf, ht, h]; rfl)
    exact ⟨k, by omega, by rw [← hi, ← hf]; exact hrest⟩

/-- In a run, the schedule runs empty again and again, each time with one more burst made. -/
theorem bursts_go_on (hr : ∀ n, step (run n) = .next (run (n + 1))) (n : Nat) :
    ∃ i, ∀ k, ∃ m, n ≤ m ∧ (run m).sched.moves = [] ∧ (run m).sched.freeIdx = i + k := by
  have step_on : ∀ n, ∃ m, n ≤ m ∧ (run m).sched.moves = [] ∧
      (run m).sched.freeIdx = (run n).sched.refill.freeIdx := by
    intro n
    have hne := Sched.refill_moves_ne_nil (run n).sched
    obtain ⟨m, hm, _, _, he, hi⟩ :=
      last_move_is_made hr _ n _ (List.dropLast_append_getLast hne).symm
    exact ⟨m + 1, by omega, he, hi⟩
  refine ⟨(run n).sched.refill.freeIdx, fun k => ?_⟩
  induction k with
  | zero => exact step_on n
  | succ k ih =>
    obtain ⟨m, hm, he, hi⟩ := ih
    obtain ⟨j, hj, he', hi'⟩ := step_on m
    refine ⟨j, by omega, he', ?_⟩
    rw [hi', Sched.refill_nil he]
    simp only [hi]
    omega

/-- Weak fairness (R128): in every run, after every step, each turn of the rotation is still to come. -/
theorem every_turn_comes (hr : ∀ n, step (run n) = .next (run (n + 1))) (n a : Nat) :
    ∃ m i, n ≤ m ∧ i % 4 = a % 4 ∧ nextMove (run m) = turn i ∧ pollFirst (run m) = false := by
  obtain ⟨i, hb⟩ := bursts_go_on hr n
  obtain ⟨m, hm, he, hi⟩ := hb (a + 3 * i)
  obtain ⟨k, hk, hx, hp, _⟩ := last_move_is_made hr (Config.freeBurst (run m).sched.freeIdx) m
    (turn (run m).sched.freeIdx) (by simp [Sched.refill_nil he, fairMoves])
  exact ⟨k, (run m).sched.freeIdx, by omega, by rw [hi]; omega, hx, hp⟩

/-- The FSM steps again (R128). -/
theorem fsm_moves_again (hr : ∀ n, step (run n) = .next (run (n + 1))) (n : Nat) :
    ∃ m, n ≤ m ∧ nextMove (run m) = .fsm := by
  obtain ⟨m, i, hm, hi, hx, _⟩ := every_turn_comes hr n 0
  exact ⟨m, hm, by simp [hx, turn, hi]⟩

/-- The timer agent ticks again (R128), with no poll still owed before the tick. -/
theorem tick_comes_again (hr : ∀ n, step (run n) = .next (run (n + 1))) (n : Nat) :
    ∃ m, n ≤ m ∧ nextMove (run m) = .tick ∧ pollFirst (run m) = false := by
  obtain ⟨m, i, hm, hi, hx, hp⟩ := every_turn_comes hr n 1
  exact ⟨m, hm, by simp [hx, turn, hi], hp⟩

/-- The transport sets tx_ready again (R128, R255). -/
theorem transport_is_ready_again (hr : ∀ n, step (run n) = .next (run (n + 1))) (n : Nat) :
    ∃ m, n ≤ m ∧ nextMove (run m) = .txReady true := by
  obtain ⟨m, i, hm, hi, hx, _⟩ := every_turn_comes hr n 2
  exact ⟨m, hm, by simp [hx, turn, hi]⟩

/-- A conversion in progress ends (R128, R255). -/
theorem conversion_ends (hr : ∀ n, step (run n) = .next (run (n + 1))) (n : Nat) :
    ∃ m raw, n ≤ m ∧ nextMove (run m) = .adcFinish raw := by
  obtain ⟨m, i, hm, hi, hx, _⟩ := every_turn_comes hr n 3
  exact ⟨m, Config.freeResult i, hm, by simp [hx, turn, hi]⟩

end Run

end Sys2Proof.Machine
end

