-- ==== Sys2Proof/Laws/PerInstr.lean ====
section
/-! SUPPORT. Facts about each instruction as syntax, one lemma per constructor. -/

namespace Sys2Proof.Laws.EncodeTag

/-- The encoding carries the instruction's tag, the tag is one that spells an opcode (R88, R90), and the port's check
of it lets the record through (R111). -/
def Statement (i : Instr) : Prop :=
  recTag (encode i) = i.tag ∧ i.tag.toNat ≤ 0x16 ∧ tagDefined (recTag (encode i)) = true

theorem waitHigh (p : Byte) : Statement (.waitHigh p) := by
  simp [Statement, encode, Instr.tag, tagDefined]
theorem waitLow (p : Byte) : Statement (.waitLow p) := by
  simp [Statement, encode, Instr.tag, tagDefined]
theorem waitChange (p : Byte) : Statement (.waitChange p) := by
  simp [Statement, encode, Instr.tag, tagDefined]
theorem rawWaitHigh (p : Byte) : Statement (.rawWaitHigh p) := by
  simp [Statement, encode, Instr.tag, tagDefined]
theorem rawWaitLow (p : Byte) : Statement (.rawWaitLow p) := by
  simp [Statement, encode, Instr.tag, tagDefined]
theorem rawWaitChange (p : Byte) : Statement (.rawWaitChange p) := by
  simp [Statement, encode, Instr.tag, tagDefined]
theorem setWaitTime (v : Word16) : Statement (.setWaitTime v) := by
  simp [Statement, encode, Instr.tag, tagDefined]
theorem delayMs (v : Word16) : Statement (.delayMs v) := by
  simp [Statement, encode, Instr.tag, tagDefined]
theorem delayUs (v : Word16) : Statement (.delayUs v) := by
  simp [Statement, encode, Instr.tag, tagDefined]
theorem timerBegin : Statement .timerBegin := by
  simp [Statement, encode, Instr.tag, tagDefined]
theorem timerEnd : Statement .timerEnd := by
  simp [Statement, encode, Instr.tag, tagDefined]
theorem setPwm (p : Byte) (v : Word16) : Statement (.setPwm p v) := by
  simp [Statement, encode, Instr.tag, tagDefined]
theorem setHigh (p : Byte) : Statement (.setHigh p) := by
  simp [Statement, encode, Instr.tag, tagDefined]
theorem setLow (p : Byte) : Statement (.setLow p) := by
  simp [Statement, encode, Instr.tag, tagDefined]
theorem setTristate (p : Byte) : Statement (.setTristate p) := by
  simp [Statement, encode, Instr.tag, tagDefined]
theorem readDigital (p : Byte) : Statement (.readDigital p) := by
  simp [Statement, encode, Instr.tag, tagDefined]
theorem readAnalog (p : Byte) : Statement (.readAnalog p) := by
  simp [Statement, encode, Instr.tag, tagDefined]
theorem charTransmit (b : Byte) : Statement (.charTransmit b) := by
  simp [Statement, encode, Instr.tag, tagDefined]
theorem charReceive : Statement .charReceive := by
  simp [Statement, encode, Instr.tag, tagDefined]
theorem charGoto : Statement .charGoto := by
  simp [Statement, encode, Instr.tag, tagDefined]
theorem loop (t : Byte) (k : Byte) : Statement (.loop t k) := by
  simp [Statement, encode, Instr.tag, tagDefined]
theorem goto (t : Byte) : Statement (.goto t) := by
  simp [Statement, encode, Instr.tag, tagDefined]
theorem noop : Statement .noop := by
  simp [Statement, encode, Instr.tag, tagDefined]

end Sys2Proof.Laws.EncodeTag
end

