-- ==== Sys2Proof/Tests/Slice0.lean ====
section
/-! SUPPORT. Tests: expected values are from the spec's encodings (30_encoding.md) and vectors
(95_test_vectors.md); for each statement with hypotheses, a state and operands that meet them. -/

namespace Sys2Proof.Machine

/-! ### Small states -/

/-- Ten pins: pin 5 and pin 9 have an analog channel, pin 9 has PWM with PWM_MAX 1023. -/
def testPins : List PinDesc :=
  List.replicate 5 { pwmMax := none, analog := false } ++
    { pwmMax := none, analog := true } ::
    (List.replicate 3 { pwmMax := none, analog := false } ++ [{ pwmMax := some 1023#16, analog := true }])

/-- The default parameters with Q = 0x1B, E = CR LF and a 10-bit converter. -/
def testCfg : Params where
  ticksPerUs := 2
  svcPeriod := 30000#16
  cgOor := .endPass
  quitByte := 0x1B#8
  eol := .two 0x0D#8 0x0A#8
  adcBits := 10
  pins := testPins

/-- After reset, with these parameters and this move next. -/
def at0 (m : Move) : State :=
  { State.reset with cfg := testCfg, sched := { moves := [m], freeIdx := 0, pollOwed := false } }

/-- A run at its head step, with two loop slots in use. -/
def inRun (m : Move) (f : Seq → Seq) : State :=
  let s := at0 m
  { s with
    seq := f { s.seq with fsm := .runHead, watchQuit := true, iter := 1#16 }
    store := { s.store with stepCount := 5#9, loopCount := 2#4 } }

/-- A run in the wait w. -/
def inWait (w : Opw) (m : Move) (f : Seq → Seq) : State :=
  inRun m fun q => f { q with fsm := .opWait, opw := w }

/-- The one-shot at work: armed with 10 at phase 50. -/
def withOneShot (done : Bool) (s : State) : State :=
  { s with timer := { s.timer with tmode := .os, cnt := if done then 10#16 else 3#16, cmp := 10#16,
                                   osDone := done, phSave := 50#16 } }

/-- Bytes in RXQ. -/
def withRx (bs : List Byte) (s : State) : State := { s with env := { s.env with rxq := bs } }

/-- A command on the port. -/
def withPort (c : Command) (s : State) : State := { s with env := { s.env with port := some c } }

/-- A slot of the loop table. -/
def withSlot (k : Fin 10) (init cur : Word16) (act : Bool) (s : State) : State :=
  { s with store := { s.store with
    slots := s.store.slots.set k.val { init := init, cur := cur, act := act } } }

/-- The store with this record at index 0. -/
def withStep0 (r : Rec) (s : State) : State :=
  { s with store := { storeWrite s.store 0 r with stepCount := 1#9 } }

/-- In RECORDING mode with these counters. -/
def recording (steps : BitVec 9) (slots : BitVec 4) : State :=
  let s := at0 .fsm
  { s with
    seq := { s.seq with execMode := .recording }
    store := { s.store with stepCount := steps, loopCount := slots } }

/-- What f sees in the next state. -/
def see {α : Type} (r : Result) (f : State → α) : Option α :=
  match r with
  | .next t => some (f t)
  | .fault _ => none
  | .refused _ => none

/-- The transition has a next state. -/
def goesOn (r : Result) : Bool := (see r fun _ => ()).isSome

/-! ### Well-formedness: one ill-formed term for each check -/

theorem test_wf_pin_missing : (Instr.setHigh 10#8).wf testCfg = false := by decide
theorem test_wf_no_pwm : (Instr.setPwm 2#8 100#16).wf testCfg = false := by decide
theorem test_wf_pwm_over_max : (Instr.setPwm 9#8 1024#16).wf testCfg = false := by decide
theorem test_wf_no_analog : (Instr.readAnalog 4#8).wf testCfg = false := by decide
theorem test_wf_odd_window : (Instr.setWaitTime 7#16).wf testCfg = false := by decide
theorem test_wf_slot_ten : (Instr.loop 0#8 10#8).wf testCfg = false := by decide
theorem test_wf_pwm_at_max : (Instr.setPwm 9#8 1023#16).wf testCfg = true := by decide

/-! ### Decoding: words written out from R88 (tag, then OB3 OB2 OB1 OB0) -/

theorem test_decode_waits :
    decode 0x0000000003#40 = .instr (.waitHigh 3#8) ∧ decode 0x0100000003#40 = .instr (.waitLow 3#8) ∧
    decode 0x0200000003#40 = .instr (.waitChange 3#8) ∧ decode 0x0300000003#40 = .instr (.rawWaitHigh 3#8) ∧
    decode 0x0400000003#40 = .instr (.rawWaitLow 3#8) ∧
    decode 0x0500000005#40 = .instr (.rawWaitChange 5#8) := by decide
theorem test_decode_times :
    decode 0x060000FFFE#40 = .instr (.setWaitTime 65534#16) ∧
    decode 0x070000FFFF#40 = .instr (.delayMs 65535#16) ∧ decode 0x0800000014#40 = .instr (.delayUs 20#16) ∧
    decode 0x0900000000#40 = .instr .timerBegin ∧ decode 0x0A00000000#40 = .instr .timerEnd := by decide
theorem test_decode_pins :
    decode 0x0B0003FF09#40 = .instr (.setPwm 9#8 1023#16) ∧ decode 0x0C00000001#40 = .instr (.setHigh 1#8) ∧
    decode 0x0D00000001#40 = .instr (.setLow 1#8) ∧ decode 0x0E00000004#40 = .instr (.setTristate 4#8) ∧
    decode 0x0F00000003#40 = .instr (.readDigital 3#8) ∧
    decode 0x1000000005#40 = .instr (.readAnalog 5#8) := by decide
theorem test_decode_bytes_and_control :
    decode 0x1100000041#40 = .instr (.charTransmit 65#8) ∧ decode 0x1200000000#40 = .instr .charReceive ∧
    decode 0x1300000000#40 = .instr .charGoto ∧ decode 0x1400000903#40 = .instr (.loop 3#8 9#8) ∧
    decode 0x15000000FF#40 = .instr (.goto 255#8) ∧ decode 0x1600000000#40 = .instr .noop := by decide
theorem test_decode_reserved :
    decode 0x1700000000#40 = .reserved 0x17#8 ∧ decode 0xFFFFFFFFFF#40 = .reserved 0xFF#8 := by decide
/-- T-ST-13: ignored bits. -/
theorem test_decode_ignored : decode 0x0CFFFFFF01#40 = .instr (.setHigh 1#8) := by decide
theorem test_table_word : decodeTableWord 40 0x0C00000001 = some (.setHigh 1#8) ∧
    decodeTableWord 40 0x1700000000 = none := by decide
theorem test_encode : encode (.setPwm 9#8 1023#16) = 0x0B0003FF09#40 ∧
    encode (.loop 3#8 9#8) = 0x1400000903#40 := by decide
/-- The order of the five bytes is the model's (log 33). -/
theorem test_bytes_in_order : decodeBytes [1#8, 0#8, 0#8, 0#8, 0x0C#8, 7#8] =
    some (.instr (.setHigh 1#8), [7#8]) := by decide

/-- A placed record is fetched and run by the very next step. -/
theorem test_fetch_word : see (step (State.reset.withFetchWord 40 0x1500000007)) (fun t => t.seq.pc) =
    some 7#9 := by decide

/-! ### Vectors of 95_test_vectors.md -/

theorem test_T_ST_4 : see (accept (.submit 0x1400000003#40 4#16) (recording 20#9 9#4))
    (fun t => (storeRead t.store 20, t.store.loopCount, t.store.stepCount)) =
    some (some 0x1400000903#40, 10#4, 21#9) := by decide
theorem test_T_ST_3 : see (accept (.submit 0x1600000000#40 0#16) (recording 256#9 0#4))
    (fun t => (t.env.trace, t.store.stepCount)) = some ([.resp .noRoom], 256#9) := by decide
theorem test_T_ST_10 : see (accept .program (recording 5#9 0#4))
    (fun t => (t.store.stepCount, t.env.trace)) = some (0#9, [.resp .ok]) := by decide
theorem test_T_RUN_3 : see (headStep (inRun .fsm fun q => { q with pc := 5#9, iter := 2#16 }))
    (fun t => (t.seq.iter, t.seq.pc, t.seq.fsm)) = some (1#16, 0#9, .runHead) := by decide
theorem test_T_RUN_4 : see (headStep (inRun .fsm fun q => { q with pc := 5#9 }))
    (fun t => (t.seq.iter, t.seq.pc, t.env.trace)) = some (0#16, 5#9, [.resp (.done false)]) := by decide
theorem test_T_RUN_6 : see (headStep (withStep0 0x0C00000002#40 (inRun .fsm id)))
    (fun t => (t.seq.cur, t.seq.pc, t.env.trace)) = some (0#9, 1#9, [.pinDrive 2#8 .high]) := by decide
theorem test_T_TM_2 :
    (tick { at0 .tick with timer := { Timer.reset 2000#16 with
      cnt := 1999#16, msCount := 7#32, msTarget := 8#32 } }).timer.tick = true := by decide
theorem test_T_TM_5 : ((ticks 3 (armOneshot 3#16 (at0 .tick))).timer.cnt,
    (ticks 3 (armOneshot 3#16 (at0 .tick))).timer.osDone) = (3#16, true) := by decide
theorem test_T_TM_10 :
    let s := withRx [0x41#8, 0x1B#8, 0x42#8] (inRun .tick id)
    let t := tick { s with timer := { s.timer with svcCnt := 29999#16 } }
    (t.seq.cancel, t.env.rxq, t.env.trace, t.timer.svcCnt) = (true, [], [.service], 0#16) := by decide
theorem test_T_W_3 : see (exec (.waitChange 3#8) (setLevel 3#8 true (inRun .fsm id)))
    (fun t => (t.seq.lvl, t.seq.deb, t.seq.opw)) = some (false, false, .level) := by decide
theorem test_T_W_7 : see (poll (withOneShot true (inWait .settle .fsm fun q => { q with lvl := true })))
    (fun t => (t.timer.tmode, t.timer.cnt, t.seq.opw)) = some (.ms, 50#16, .level) := by decide
theorem test_T_WT_3 : see (exec (.setWaitTime 7#16) (inRun .fsm id)) (fun t => t.seq.wt) =
    some 7#16 := by decide
theorem test_T_DM_3 :
    let s := inRun .fsm id
    see (exec (.delayMs 1#16) { s with timer := { s.timer with msCount := 0xFFFFFFFE#32, tick := true } })
      (fun t => (t.timer.msTarget, t.timer.tick, t.seq.opw)) = some (0#32, false, .dms) := by decide
theorem test_T_DU_1 : see (exec (.delayUs 20#16) (inRun .fsm id))
    (fun t => (t.timer.svcEn, t.timer.tmode, t.timer.cmp)) = some (false, .os, 20#16) := by decide
theorem test_T_DU_2 : see (exec (.delayUs 0#16) (inRun .fsm id))
    (fun t => (t.timer.svcEn, t.timer.tmode, t.seq.fsm)) = some (true, .ms, .runHead) := by decide
/-- T-TE-1: "1350" and E. -/
theorem test_T_TE_1 :
    let s := inRun .fsm fun q => { q with tbMs := 10#32, tbPh := 1500#16 }
    see (exec .timerEnd { s with timer := { s.timer with msCount := 12#32, cnt := 200#16 } })
      (fun t => t.seq.outq) = some [0x31#8, 0x33#8, 0x35#8, 0x30#8, 0x0D#8, 0x0A#8] := by decide
theorem test_T_TE_5 : (elapsedUs 2 4294968#32 0#16 0#32 0#16).toNat = 704 := by decide
theorem test_T_P_1 : see (exec (.setPwm 9#8 1023#16) (inRun .fsm id)) (fun t => t.env.trace) =
    some [.pwmWrite 9#8 1023#16] := by decide
theorem test_T_P_3 : see (exec (.setTristate 4#8) (inRun .fsm id)) (fun t => t.env.trace) =
    some [.pinDrive 4#8 .tristate] := by decide
theorem test_T_RD_1 : see (exec (.readDigital 3#8) (setLevel 3#8 true (inRun .fsm id)))
    (fun t => t.seq.outq) = some [0x31#8, 0x0D#8, 0x0A#8] := by decide
theorem test_T_RD_4 : see (poll (withOneShot false (inWait .rsettle .fsm fun q => { q with cancel := true })))
    (fun t => (t.timer.cnt, t.seq.fsm, t.seq.outq)) = some (50#16, .runHead, []) := by decide
theorem test_T_RA_1 : see (exec (.readAnalog 5#8) (inRun .fsm id)) (fun t => (t.env.trace, t.seq.opw)) =
    some ([.adcStart 5#8], .adc) := by decide
theorem test_T_CT_1 : see (exec (.charTransmit 65#8) (inRun .fsm id)) (fun t => t.seq.outq) =
    some [0x41#8] := by decide
theorem test_T_CR_1 : see (poll (withRx [0x41#8] (inWait .cr .fsm id)))
    (fun t => (t.seq.watchQuit, t.seq.cancel, t.env.rxq)) = some (true, false, []) := by decide
theorem test_T_CG_1 : see (poll (withRx [3#8] (inWait .cg .fsm id))) (fun t => t.seq.pc) =
    some 3#9 := by decide
theorem test_T_CG_3 : see (poll { withRx [9#8] (inWait .cg .fsm id) with cfg := { testCfg with cgOor := .fault } })
    (fun t => (t.seq.fsm, t.seq.faultKind)) = some (.fault, .badTarget) := by decide
theorem test_T_LO_1 : see (exec (.loop 0#8 0#8) (inRun .fsm fun q => { q with pc := 2#9 }))
    (fun t => ((t.store.slots[0]).act, t.seq.pc)) = some (false, 2#9) := by decide
theorem test_T_LO_2 : see (exec (.loop 0#8 0#8) (withSlot 0 2#16 0#16 false (inRun .fsm id)))
    (fun t => ((t.store.slots[0]).cur, t.seq.pc)) = some (1#16, 0#9) := by decide
theorem test_T_LO_4 : see (exec (.loop 0#8 5#8) (inRun .fsm id)) (fun t => t.seq.faultKind) =
    some .badSlot := by decide
theorem test_T_GO_1 : see (exec (.goto 255#8) (inRun .fsm id)) (fun t => t.seq.pc) =
    some 255#9 := by decide
theorem test_T_NO_1 : see (exec .noop (inRun .fsm id)) (fun t => (t.seq.fsm, t.seq.pc)) =
    some (.runHead, 0#9) := by decide
theorem test_T_F_1 : see (headStep (withStep0 0x2000000000#40 (inRun .fsm id)))
    (fun t => (t.seq.fsm, t.seq.faultKind, t.seq.watchQuit, t.env.trace)) =
    some (.fault, .illegalTag, false, []) := by decide
/-- R128: with a poll owed, the step before the next tick is the FSM's poll. -/
theorem test_poll_owed : see (step { inWait .dms .tick id with
    sched := { moves := [.tick], freeIdx := 0, pollOwed := true } })
    (fun t => (t.timer.cnt, t.sched.moves)) = some (0#16, [.tick]) := by decide

/-! ### Witnesses: for each statement with hypotheses, a state and operands that meet them all together, one for
each clause -/

/-- An immediate step in a wait. -/
def immWait (w : Opw) : State := inWait w .fsm fun q => { q with ctx := .imm }

/-- In FAULT. -/
def inFault : State := at0 .tick |>.withSeq (raiseFault .badSlot (at0 .tick)).seq

theorem witness_CompletionReturnsTheSequencer :
    (inRun .fsm id).seq.ctx = .run ∧ (immWait .dms).seq.ctx = .imm := by decide
theorem witness_ResetInputRestoresTheBlock : nextMove (inFault.withSched (at0 .reset).sched) = .reset := by decide
theorem witness_FaultStopsTheSequencer :
    inFault.seq.fsm = .fault ∧ inFault.seq.watchQuit = false ∧ nextMove inFault ≠ .reset ∧
      goesOn (step inFault) = true := by decide
theorem witness_ChangeWaitsTargetTheOtherLevel :
    (9#8).toNat < (inRun .fsm id).cfg.pins.length ∧ (inRun .fsm id).cfg.pins.length ≤ (10#8).toNat := by decide
theorem witness_DelayUsArmsTheOneShot :
    (0#16 = 0#16) ∧ (1#16 ≠ 0#16 ∧ (inRun .fsm id).timer.tmode = .ms) ∧
      (65535#16 ≠ 0#16 ∧ (withOneShot true (inRun .fsm id)).timer.tmode = .os) := by decide
theorem witness_DecSpellsTheNumber : 0 < 10 ^ 10 ∧ (10 ^ 10 - 1 < 10 ^ 10 ∧ 10 ^ 10 - 1 ≠ 0) := by decide
theorem witness_SetPwmWritesTheDuty :
    (testCfg.pins[(9#8).toNat]? = some { pwmMax := some 1023#16, analog := true } ∧ some 1023#16 ≠ none) ∧
      testCfg.pins[(8#8).toNat]? = some { pwmMax := none, analog := false } ∧
      testCfg.pins.length ≤ (10#8).toNat := by decide
theorem witness_PinDrivesAreOutputEvents :
    (9#8).toNat < testCfg.pins.length ∧ testCfg.pins.length ≤ (10#8).toNat := by decide
theorem witness_ReadDigitalSamplesThePin :
    let s := inRun .fsm id
    let w := inRun .fsm fun q => { q with wt := 1#16 }
    ((9#8).toNat < s.cfg.pins.length ∧ s.seq.wt = 0#16) ∧
      ((9#8).toNat < w.cfg.pins.length ∧ w.seq.wt ≠ 0#16 ∧ w.timer.tmode = .ms) ∧
      ((9#8).toNat < (withOneShot true w).cfg.pins.length ∧ (withOneShot true w).seq.wt ≠ 0#16 ∧
        (withOneShot true w).timer.tmode = .os) ∧
      s.cfg.pins.length ≤ (10#8).toNat := by decide
theorem witness_ReadAnalogStartsAConversion :
    testCfg.pins[(5#8).toNat]? = some { pwmMax := none, analog := true } ∧
      testCfg.pins[(4#8).toNat]? = some { pwmMax := none, analog := false } ∧
      testCfg.pins.length ≤ (10#8).toNat := by decide
theorem witness_LoopCountsItsSlot :
    let s := inRun .fsm id
    let j := withSlot 1 1#16 7#16 false s
    let c := withSlot 1 3#16 0#16 true s
    s.store.loopCount.toNat ≤ (2#8).toNat ∧
      ((1#8).toNat < 10 ∧ (1#8).toNat < j.store.loopCount.toNat ∧ (j.store.slots[1]).act = false ∧
        (j.store.slots[1]).init ≠ 0#16) ∧
      ((1#8).toNat < 10 ∧ (1#8).toNat < c.store.loopCount.toNat ∧ (c.store.slots[1]).act = true ∧
        (c.store.slots[1]).cur = 0#16) := by decide
theorem witness_GotoJumpsAndNoopOnlyCompletes : (immWait .none).seq.ctx = .imm := by decide
theorem witness_OpcodesWriteOnlyWhatTheyName :
    let s := inRun .fsm id
    let w := inRun .fsm fun q => { q with wt := 1#16 }
    see (exec (.setWaitTime 1#16) s) (fun t => decide (t.seq.wt ≠ s.seq.wt)) = some true ∧
      see (exec .timerBegin { s with timer := { s.timer with cnt := 1#16 } })
        (fun t => decide (t.seq.tbPh ≠ s.seq.tbPh)) = some true ∧
      see (exec (.goto 1#8) s) (fun t => decide (t.seq.pc ≠ s.seq.pc)) = some true ∧
      see (exec (.loop 0#8 0#8) (withSlot 0 2#16 0#16 false s))
        (fun t => decide ((t.store.slots[0]).act ≠ (s.store.slots[0]).act)) = some true ∧
      see (exec (.loop 0#8 2#8) s) (fun t => decide (t.seq.faultKind ≠ s.seq.faultKind)) = some true ∧
      see (exec (.delayMs 1#16) s) (fun t => decide (t.timer.msTarget ≠ s.timer.msTarget)) = some true ∧
      see (exec (.delayUs 1#16) s) (fun t => decide (t.timer.svcEn ≠ s.timer.svcEn)) = some true ∧
      see (exec (.delayUs 1#16) s) (fun t => decide (t.timer.tmode ≠ s.timer.tmode)) = some true ∧
      see (exec (.rawWaitHigh 1#8) s) (fun t => decide (t.seq.lvl ≠ s.seq.lvl)) = some true ∧
      see (exec (.waitHigh 1#8) w) (fun t => decide (t.seq.deb ≠ s.seq.deb)) = some true ∧
      see (exec (.charTransmit 1#8) s) (fun t => decide (t.seq.outq ≠ s.seq.outq)) = some true ∧
      see (exec (.setLow 1#8) s) (fun t => decide (t.env.trace ≠ s.env.trace)) = some true ∧
      (s.seq.ctx = .run ∧ (inWait .none .fsm fun q => { q with ctx := .imm }).seq.ctx = .imm) ∧
      see (exec (.readAnalog 5#8) s) (fun t => decide (t.env.adc ≠ s.env.adc)) = some true := by decide

/-- A level wait whose pin (IR = 0) reads low, for this target level and DEB. -/
def atLevel (w : Opw) (target deb : Bool) : State :=
  inWait w .fsm fun q => { q with lvl := target, deb := deb, wt := 10#16 }

/-- The same with CANCEL = 1. -/
def cancelled (w : Opw) : State := inWait w .fsm fun q => { q with cancel := true }

/-- A wait on pin 10, which the Pin Table does not have. -/
def onMissingPin (w : Opw) : State := inWait w .fsm fun q => { q with ir := 0x0A#40 }

theorem witness_WaitPollsHoldTheLevel :
    (∀ w ∈ [Opw.level, Opw.settle], (onMissingPin w).seq.opw = w ∧ (onMissingPin w).seq.cancel = false ∧
      (onMissingPin w).cfg.pins.length ≤ (irPin (onMissingPin w)).toNat) ∧
    ((cancelled .level).seq.opw = .level ∧ (cancelled .level).seq.cancel = true) ∧
    ((cancelled .settle).seq.opw = .settle ∧ (cancelled .settle).seq.cancel = true) ∧
    (∀ w ∈ [Opw.level, Opw.settle, Opw.rsettle], ∀ l ∈ [true, false], ∀ d ∈ [true, false],
      (atLevel w l d).seq.cancel = false ∧ (irPin (atLevel w l d)).toNat < (atLevel w l d).cfg.pins.length ∧
      (atLevel w l d).env.levels[(irPin (atLevel w l d)).toNat]'(irPin (atLevel w l d)).isLt = false ∧
      (atLevel w l d).seq.lvl = l ∧ (atLevel w l d).seq.deb = d ∧ (atLevel w l d).timer.tmode = .ms ∧
      (withOneShot l (atLevel w l d)).timer.osDone = l ∧
      (withOneShot l (atLevel w l d)).timer.tmode = .os) := by decide
theorem witness_SteadyReadReArmsOnEveryChange :
    ((onMissingPin .rsettle).seq.opw = .rsettle ∧ (onMissingPin .rsettle).seq.cancel = false ∧
      (onMissingPin .rsettle).cfg.pins.length ≤ (irPin (onMissingPin .rsettle)).toNat) ∧
    ((cancelled .rsettle).seq.opw = .rsettle ∧ (cancelled .rsettle).seq.cancel = true) ∧
    ((atLevel .rsettle true false).seq.opw = .rsettle ∧
      (withOneShot true (atLevel .rsettle true false)).timer.tmode = .os) ∧
    (withOneShot true (atLevel .rsettle false false)).timer.osDone = true ∧
    (withOneShot false (atLevel .rsettle false false)).timer.osDone = false := by decide
theorem witness_DelayPollsWaitForTheirFlag :
    let d := inWait .dms .fsm id
    ((cancelled .dms).seq.opw = .dms ∧ (cancelled .dms).seq.cancel = true) ∧
      (d.seq.opw = .dms ∧ d.seq.cancel = false ∧ d.timer.tick = false) ∧
      ((withOneShot false (inWait .dus .fsm id)).seq.opw = .dus ∧
        (withOneShot false (inWait .dus .fsm id)).timer.osDone = false) ∧
      (withOneShot true (inWait .dus .fsm id)).timer.osDone = true := by decide

/-- A TX wait with these bytes and tx_ready. -/
def sending (bs : List Byte) (ready : Bool) : State :=
  setTxReady ready (inWait .tx .fsm fun q => { q with outq := bs })

/-- An ADC wait with this converter state. -/
def converting (a : AdcState) : State :=
  let s := inWait .adc .fsm id
  { s with env := { s.env with adc := a } }

theorem witness_OutputPollsSendEveryByte :
    ((converting (.converting 5#8)).seq.opw = .adc ∧ (converting (.converting 5#8)).env.adc ≠ .done 512#16) ∧
      (converting (.done 512#16)).env.adc = .done 512#16 ∧
      ((sending [1#8] false).seq.opw = .tx ∧ (sending [1#8] false).seq.outq = [1#8] ∧
        (sending [1#8] false).env.txReady = false) ∧
      ((sending [1#8, 2#8] true).seq.outq = [1#8, 2#8] ∧ (sending [1#8, 2#8] true).env.txReady = true) := by decide
theorem witness_CharReceiveTakesOneByte :
    ((cancelled .cr).seq.opw = .cr ∧ (cancelled .cr).seq.cancel = true) ∧
      ((inWait .cr .fsm id).seq.cancel = false ∧ (inWait .cr .fsm id).env.rxq = []) ∧
      (withRx [0x1B#8] (inWait .cr .fsm id)).env.rxq = [testCfg.quitByte] := by decide
theorem witness_CharGotoJumpsToTheByte :
    let g (b : Byte) := withRx [b] (inWait .cg .fsm id)
    let f (b : Byte) := { g b with cfg := { testCfg with cgOor := .fault } }
    ((cancelled .cg).seq.opw = .cg ∧ (cancelled .cg).seq.cancel = true) ∧
      ((g 0x1B#8).seq.opw = .cg ∧ (g 0x1B#8).env.rxq = [0x1B#8] ∧ 0x1B#8 = (g 0x1B#8).cfg.quitByte) ∧
      (5#8 ≠ (f 5#8).cfg.quitByte ∧ (f 5#8).cfg.cgOor = .fault ∧
        (f 5#8).store.stepCount.toNat ≤ (5#8).toNat) ∧
      (4#8 ≠ (f 4#8).cfg.quitByte ∧ (4#8).toNat < (f 4#8).store.stepCount.toNat) ∧
      (255#8 ≠ (g 255#8).cfg.quitByte ∧ (g 255#8).cfg.cgOor = .endPass) := by decide
theorem witness_OnlyNamedWaitsTestCancel :
    (∀ w ∈ [Opw.level, .settle, .rsettle, .dms, .cr, .cg],
      (cancelled w).seq.cancel = true ∧ (cancelled w).seq.opw = w) ∧
    (goesOn (poll (withOneShot true (inWait .dus .fsm id))) = true ∧
      goesOn (poll (converting (.done 0#16))) = true ∧ goesOn (poll (sending [1#8] true)) = true) := by decide
theorem witness_AppendStoresTheNextStep :
    ((recTag 0x16FFFFFFFF#40).toNat ≤ 0x16 ∧ (recording 255#9 10#4).seq.execMode = .recording ∧
      (recording 255#9 10#4).store.stepCount.toNat < 256 ∧ recTag 0x16FFFFFFFF#40 ≠ 0x14#8) ∧
    (recTag 0x1400000003#40 = 0x14#8 ∧ (recording 0#9 9#4).store.loopCount.toNat < 10 ∧
      (recording 0#9 9#4).store.stepCount.toNat < 256) := by decide
theorem witness_RefusedCommandsAreInert :
    0x16 < (recTag 0x1700000000#40).toNat ∧
    ((recTag 0x1600000000#40).toNat ≤ 0x16 ∧ (recording 256#9 0#4).seq.execMode = .recording ∧
      (recording 256#9 0#4).store.stepCount = 256#9) ∧
    (recTag 0x1400000000#40 = 0x14#8 ∧ (recording 21#9 10#4).store.loopCount = 10#4) := by decide
theorem witness_RunStartsAtStepZero : 0#16 = 0#16 ∧ 1#16 ≠ 0#16 ∧ 65535#16 ≠ 0#16 := by decide
theorem witness_ImmediateJumpsAreSkipped :
    (at0 .fsm).seq.execMode = .immediate ∧ recTag 0x1300000000#40 = 0x13#8 ∧
      recTag 0x1400000003#40 = 0x14#8 ∧ recTag 0x1500000007#40 = 0x15#8 := by decide
theorem witness_HeadStepEndsPassesAndRuns :
    let s (n : Word16) := inRun .fsm fun q => { q with pc := 5#9, iter := n }
    let f := withStep0 0x2000000000#40 (inRun .fsm id)
    (cancelled .none).seq.cancel = true ∧
      (f.seq.cancel = false ∧ f.seq.pc.toNat < f.store.stepCount.toNat ∧
        storeRead f.store f.seq.pc.toNat = some 0x2000000000#40) ∧
      ((s 1#16).seq.cancel = false ∧ (s 1#16).store.stepCount.toNat ≤ (s 1#16).seq.pc.toNat ∧
        (s 1#16).seq.iter = 1#16) ∧
      (s 2#16).seq.iter ≠ 1#16 := by decide

/-- An immediate SUBMIT of this record on the port. -/
def submitting (r : Rec) : State := withPort (.submit r 0#16) (at0 .fsm)

theorem witness_StepRunsTheDecodedInstruction :
    let s := withStep0 0x15000000FF#40 (inRun .fsm id)
    let f := inFault.withSched (at0 .fsm).sched
    ((inWait .dms .fsm id).seq.fsm = .opWait ∧ nextMove (inWait .dms .fsm id) = .fsm) ∧
    (f.seq.fsm = .fault ∧ nextMove f = .fsm) ∧
    ((at0 .fsm).seq.fsm = .idle ∧ (at0 .fsm).env.port = none ∧ nextMove (at0 .fsm) = .fsm) ∧
    (nextMove s = .fsm ∧ decode 0x15000000FF#40 = .instr (.goto 255#8) ∧ s.seq.fsm = .runHead ∧
      s.seq.cancel = false ∧ s.seq.pc.toNat < s.store.stepCount.toNat ∧
      storeRead s.store s.seq.pc.toNat = some 0x15000000FF#40) ∧
    (nextMove (submitting 0x1600000000#40) = .fsm ∧ (submitting 0x1600000000#40).seq.fsm = .idle ∧
      (submitting 0x1600000000#40).seq.execMode = .immediate ∧
      (submitting 0x1600000000#40).env.port = some (.submit 0x1600000000#40 0#16) ∧
      recTag 0x1600000000#40 ≠ 0x13#8 ∧ recTag 0x1600000000#40 ≠ 0x14#8 ∧
      recTag 0x1600000000#40 ≠ 0x15#8) := by decide
theorem witness_PortIsReadyOnlyInIdle :
    let r := inRun (.issue .program) id
    (nextMove (submitting 0#40) = .fsm ∧ (submitting 0#40).seq.fsm = .idle ∧
      (submitting 0#40).env.port = some (.submit 0#40 0#16)) ∧
    (nextMove r = .issue .program ∧ r.seq.fsm ≠ .idle) ∧
    (nextMove (at0 (.issue .finish)) = .issue .finish ∧ (at0 (.issue .finish)).seq.fsm = .idle ∧
      (at0 (.issue .finish)).env.port = none) := by decide
theorem witness_EnvironmentMovesLeaveTheBlock :
    let a := { inRun (.adcFinish 512#16) id with env := (converting (.converting 5#8)).env }
    nextMove (at0 (.rx 1#8)) = .rx 1#8 ∧ nextMove (at0 (.pinLevel 255#8 true)) = .pinLevel 255#8 true ∧
      nextMove (at0 (.txReady false)) = .txReady false ∧
      (nextMove a = .adcFinish 512#16 ∧ a.env.adc = .converting 5#8) ∧
      (nextMove (at0 (.adcFinish 1#16)) = .adcFinish 1#16 ∧ (at0 (.adcFinish 1#16)).env.adc = .idle) ∧
      (nextMove (at0 .frontEndPop) = .frontEndPop ∧ (at0 .frontEndPop).seq.fsm = .idle) ∧
      (nextMove (inRun .frontEndPop id) = .frontEndPop ∧ (inRun .frontEndPop id).seq.fsm ≠ .idle) := by decide
theorem witness_PollComesBetweenTwoTicks :
    let s := inWait .dms .tick id
    let o := s.withSched { s.sched with pollOwed := true }
    (s.seq.fsm = .opWait ∧ nextMove s = .tick ∧ s.sched.pollOwed = false ∧ goesOn (step s) = true) ∧
      (o.seq.fsm = .opWait ∧ nextMove o = .tick ∧ o.sched.pollOwed = true ∧ goesOn (step o) = true) := by decide
theorem witness_IgnoredBitsCarryNothing :
    (recTag 0x0CFFFFFF01#40 = recTag 0x0C00000001#40 ∧
      0x0CFFFFFF01#40 &&& namedBits (recTag 0x0CFFFFFF01#40) =
        0x0C00000001#40 &&& namedBits (recTag 0x0CFFFFFF01#40)) ∧
    decode 0x0CFFFFFF01#40 = .instr (.setHigh 1#8) := by decide
theorem witness_ReservedTagsAreRefused :
    0x17 ≤ (recTag 0x1700000000#40).toNat ∧ (recTag 0x1600000000#40).toNat < 0x17 := by decide
theorem witness_OneShotMatchesAfterItsWindow : 1#16 ≠ 0#16 ∧ 65535#16 ≠ 0#16 := by decide
theorem witness_TimeBasePausesDuringTheOneShot : (at0 .tick).timer.tmode = .ms := by decide

/-- The time base one tick before its millisecond. -/
theorem witness_MillisecondTickIsExact :
    MsPhase testCfg.ticksPerMs { (at0 .tick).timer with cnt := 1999#16 } :=
  ⟨by decide, by decide, by decide⟩
theorem witness_DelayMsLastsToItsTick :
    MsPhase (inRun .fsm id).cfg.ticksPerMs (inRun .fsm id).timer ∧
      goesOn (exec (.delayMs 65535#16) (inRun .fsm id)) = true :=
  ⟨⟨by decide, by decide, by decide⟩, by decide⟩
theorem witness_ServiceEventsComeEveryPeriod :
    let s := at0 .tick
    let e (b : Bool) := { s with timer := { s.timer with svcCnt := 29999#16, svcEn := b } }
    ((e true).timer.svcCnt.toNat < (e true).cfg.svcPeriod.toNat ∧ (e true).timer.svcEn = true) ∧
      ((e false).timer.svcCnt.toNat < (e false).cfg.svcPeriod.toNat ∧ (e false).timer.svcEn = false) := by decide
theorem witness_ServiceEventDrainsForTheQuitByte :
    let due (s : State) : State := { s with timer := { s.timer with svcCnt := 29999#16 } }
    let off := { due (at0 .tick) with timer := { (due (at0 .tick)).timer with svcEn := false } }
    (∀ s ∈ [due (inRun .tick id), due (at0 .tick), at0 .tick, off], nextMove s = .tick ∧ pollFirst s = false) ∧
      ((due (inRun .tick id)).seq.watchQuit = true ∧ (due (inRun .tick id)).timer.svcEn = true ∧
        (due (inRun .tick id)).timer.svcCnt + 1#16 = (due (inRun .tick id)).cfg.svcPeriod) ∧
      ((due (at0 .tick)).seq.watchQuit = false ∧ (due (at0 .tick)).timer.svcEn = true ∧
        (due (at0 .tick)).timer.svcCnt + 1#16 = (due (at0 .tick)).cfg.svcPeriod) ∧
      (at0 .tick).timer.svcCnt + 1#16 ≠ (at0 .tick).cfg.svcPeriod ∧ off.timer.svcEn = false := by decide
theorem witness_DelayUsSuspendsTheWatch :
    1#16 ≠ 0#16 ∧ goesOn (exec (.delayUs 1#16) (withRx [0x1B#8] (inRun .fsm id))) = true := by decide
theorem witness_PcIsWrittenOnlyByItsRules :
    see (step (withStep0 0x15000000FF#40 (inRun .fsm id))) (fun t => decide (t.seq.pc ≠ 0#9)) = some true ∧
    see (step (withRx [9#8] (inWait .cg .fsm id))) (fun t => decide (t.seq.pc ≠ 0#9)) = some true ∧
    see (step (withPort (.run 1#16) ((at0 .fsm).withSeq { (at0 .fsm).seq with pc := 3#9 })))
      (fun t => decide (t.seq.pc ≠ 3#9)) = some true := by decide
theorem witness_CancelIsWrittenOnlyByItsRules :
    let s := inRun .tick id
    let q := withRx [0x1B#8] { s with timer := { s.timer with svcCnt := 29999#16 } }
    let r := withPort (.run 1#16) ((at0 .fsm).withSeq { (at0 .fsm).seq with cancel := true })
    (q.seq.cancel = false ∧ see (step q) (fun t => t.seq.cancel) = some true) ∧
      (r.seq.cancel = true ∧ see (step r) (fun t => t.seq.cancel) = some false) := by decide
theorem witness_WindowAndSnapshotHaveOneWriter :
    see (step (submitting 0x060000000A#40)) (fun t => t.seq.wt) = some 10#16 ∧
    see (step { submitting 0x0900000000#40 with timer := { Timer.reset 2000#16 with msCount := 10#32 } })
      (fun t => t.seq.tbMs) = some 10#32 := by decide
theorem witness_StoreIsWrittenOnlyInRecording :
    see (step (withPort (.submit 0x1400000000#40 3#16) (recording 0#9 0#4)))
      (fun t => (t.store.opc.read 0, (t.store.slots[0]).init, t.store.stepCount)) =
      some (some 0x14#8, 3#16, 1#9) := by decide
theorem witness_EachCommandGetsOneResponse :
    (see (step (submitting 0x1600000000#40)) (fun t => (t.seq.fsm, responses t.env.trace)) = some (.idle, 1) ∧
      nextMove (submitting 0x1600000000#40) ≠ .reset) ∧
    (see (step (submitting 0x0700000001#40)) (fun t => (t.seq.fsm, responses t.env.trace)) =
      some (.opWait, 0)) := by decide
theorem witness_OutputsStandAndParametersStay : goesOn (step (at0 .reset)) = true := by decide

/-- The invariant holds of the reset block with these parameters; its next step is a tick. -/
theorem witness_StepKeepsTheInvariant : Inv (at0 .tick) ∧ goesOn (step (at0 .tick)) = true := by
  refine ⟨⟨by decide, ⟨⟨by decide, by decide⟩, by unfold WatchExact; decide, ⟨by decide, by decide⟩,
    ⟨by decide, by decide, by decide⟩⟩, ⟨fun h => absurd h (by decide),
    fun _ => ⟨⟨by decide, by decide, by decide⟩,
    by decide⟩, by decide, by decide⟩, ⟨by decide, by decide, List.Pairwise.nil, List.Pairwise.nil,
    fun _ h => (nomatch h), fun _ h => (nomatch h), fun i h => absurd h (Nat.not_lt_zero i)⟩, ?_, ⟨by decide, ?_⟩,
    fun h => (nomatch h)⟩, by decide⟩
  · intro h
    rcases h with h | h
    · exact absurd h (by decide)
    · exact absurd h.1 (by decide)
  · intro h
    rcases h with h | h
    · exact absurd h (by decide)
    · exact absurd h.1 (by decide)
theorem witness_DutifulFrontEndNeverStopsTheBlock :
    Inv (at0 .tick) ∧ PinDuty (at0 .tick) ∧ MoveDuty (at0 .tick) :=
  ⟨witness_StepKeepsTheInvariant.1,
    ⟨fun i h => absurd h (Nat.not_lt_zero i), fun _ h => (nomatch h), fun h => absurd h (by decide)⟩,
    fun _ h => (nomatch h)⟩
theorem witness_PortFedBlockNeverFaults :
    Inv (at0 .tick) ∧ (at0 .tick).cfg.cgOor = .endPass ∧ (at0 .tick).seq.fsm ≠ .fault ∧
      goesOn (step (at0 .tick)) = true :=
  ⟨witness_StepKeepsTheInvariant.1, by decide, by decide, by decide⟩
theorem witness_LoopJumpsExactlyNTimes :
    let s := withSlot 1 2#16 9#16 false (inRun .fsm id)
    (1#8).toNat < 10 ∧ (1#8).toNat < s.store.loopCount.toNat ∧ s.seq.ctx = .run ∧
      (s.store.slots[1]).act = false ∧ (0 < 2 ∧ 2 ≤ (s.store.slots[1]).init.toNat) ∧
      (∀ (_ : Nat) (u : State), (setWatch false u).store.slots[1] = u.store.slots[1] ∧
        (setWatch false u).store.loopCount = u.store.loopCount ∧ (setWatch false u).seq.ctx = u.seq.ctx) :=
  ⟨by decide, by decide, by decide, by decide, by decide, fun _ _ => ⟨rfl, rfl, rfl⟩⟩

end Sys2Proof.Machine
end

section
/-! PROOFS. The environment's moves (00_scope.md R9, R10, R12, R13, 70_reset_and_hazards.md R255): what each one
writes, and that a step for any move but a tick is that move. -/

namespace Sys2Proof.Machine

/-! ### The step for a move other than a tick -/

/-- Only a tick waits for a poll (R128): a step for any other move makes it. -/
theorem step_of_nextMove {s : State} {m : Move} (h : nextMove s = m) (hm : m ≠ .tick) :
    step s = applyMove m (consume s) := by
  have hp : ¬ pollFirst s = true := fun hp => hm (h ▸ ((pollFirst_iff s).1 hp).1)
  rw [step, if_neg hp, h]

/-! ### Pin levels -/

theorem setLevel_same (p : Byte) (l : Bool) (s : State) : (setLevel p l s).env.levels[p.toNat]'p.isLt = l :=
  Vector.getElem_set_self p.isLt

theorem setLevel_other {p q : Byte} (h : q ≠ p) (l : Bool) (s : State) :
    (setLevel p l s).env.levels[q.toNat]'q.isLt = s.env.levels[q.toNat]'q.isLt :=
  Vector.getElem_set_ne p.isLt q.isLt fun e => h (BitVec.eq_of_toNat_eq e.symm)

/-! ### Conversions -/

theorem finishConversion_converting {s : State} {p : Byte} (raw : Word16) (h : s.env.adc = .converting p) :
    finishConversion raw s = s.withEnv { s.env with adc := .done (adcTrim s.cfg.adcBits raw) } := by
  rw [finishConversion, h]

theorem finishConversion_of_not_converting {s : State} (raw : Word16) (h : ∀ p, s.env.adc ≠ .converting p) :
    finishConversion raw s = s := by
  unfold finishConversion
  split
  · rename_i p hc
    exact absurd hc (h p)
  · rfl
  · rfl

/-! ### The front-end's read of RXQ -/

theorem frontEndPop_idle {s : State} (h : s.seq.fsm = .idle) : frontEndPop s = dropRx s :=
  if_pos (decide_eq_true h)

theorem frontEndPop_of_not_idle {s : State} (h : s.seq.fsm ≠ .idle) : frontEndPop s = s :=
  if_neg fun hr => h (of_decide_eq_true hr)

/-! ### The obligation -/

/-- Settles O37: none of these moves is a tick, so the step makes the move; then each move's own equation. -/
theorem environmentMovesLeaveTheBlock : Obligations.EnvironmentMovesLeaveTheBlock := by
  intro s
  refine ⟨fun b h => ?rx, fun p l h => ?pinLevel, fun r h => ?txReady, fun p raw h hc => ?converting,
    fun raw h hc => ?noConversion, fun h hi => ?popIdle, fun h hi => ?popBusy⟩
  all_goals rw [step_of_nextMove h (by simp)]
  case rx => rfl
  case pinLevel =>
    exact ⟨setLevel p l (consume s), rfl, rfl, rfl, rfl, rfl, setLevel_same p l _,
      fun q hq => setLevel_other hq l _, rfl, rfl, rfl, rfl, rfl⟩
  case txReady => rfl
  case converting => exact next_inj.2 (finishConversion_converting (s := consume s) raw hc)
  case noConversion => exact next_inj.2 (finishConversion_of_not_converting (s := consume s) raw hc)
  case popIdle => exact next_inj.2 (frontEndPop_idle (s := consume s) hi)
  case popBusy => exact next_inj.2 (frontEndPop_of_not_idle (s := consume s) hi)

end Sys2Proof.Machine
end

section
/-! PROOFS. What one step can do, said once: how a dispatch part, a poll and an FSM step end (40_engine.md R110–R121),
and what a move of another agent leaves alone. -/

namespace Sys2Proof.Machine

/-! ### complete() by groups, in both contexts (R121, R122) -/

@[simp] theorem complete_seq (s : State) : (complete s).seq = { s.seq with
    opw := .none
    ctx := .run
    fsm := if s.seq.ctx = .run then .runHead else .idle
    watchQuit := decide (s.seq.ctx = .run) && s.seq.watchQuit } := by
  obtain ⟨h, hq, _⟩ | ⟨h, hq, _⟩ := complete_cases s
  · rw [hq, if_pos h, ← h]
    simp [h]
  · rw [hq]
    simp [h]

@[simp] theorem complete_env (s : State) : (complete s).env = { s.env with
    trace := s.env.trace ++ if s.seq.ctx = .run then [] else [.resp .ok] } := by
  obtain ⟨h, _, he⟩ | ⟨h, _, he⟩ := complete_cases s
  · rw [he, if_pos h, List.append_nil]
  · rw [he, if_neg (by simp [h])]

/-! ### The dispatch parts (R117) -/

/-- Slot k after a Loop dispatch has used it (R191). -/
def countSlot (k : Fin 10) (s : State) : State :=
  s.withStore { s.store with slots := s.store.slots.set k.val (s.store.slots[k.val]).next }

/-- The instructions that make an output event at dispatch and complete (R170–R173). -/
def Drives (i : Instr) : Prop :=
  (∃ p v, i = .setPwm p v) ∨ (∃ p, i = .setHigh p) ∨ (∃ p, i = .setLow p) ∨ ∃ p, i = .setTristate p

/-- The instructions that may fill OUTQ at dispatch (R156, R174, R180). -/
def Sends (i : Instr) : Prop :=
  i = .timerEnd ∨ (∃ b, i = .charTransmit b) ∨ ∃ p, i = .readDigital p

/-- How the dispatch part of an instruction ends, when the machine goes on. -/
inductive ExecEnd (i : Instr) (s : State) : State → Prop
  | levelWait (l d : Bool) (hi : waitsOf i = [.level]) : ExecEnd i s (startWait l d s)
  | window (v : Word16) (hi : i = .setWaitTime v) : ExecEnd i s (complete (s.withSeq { s.seq with wt := v }))
  | msDelay (v : Word16) (hi : i = .delayMs v) : ExecEnd i s (enterWait .dms
      (s.withTimer { s.timer with msTarget := delayTarget s.timer.msCount v, tick := false }))
  | usDelay (v : Word16) (hi : i = .delayUs v) (hv : v ≠ 0#16) :
      ExecEnd i s (enterWait .dus (armOneshot v (setSvcEn false s)))
  | nothing (hi : i = .noop ∨ i = .delayUs 0#16) : ExecEnd i s (complete s)
  | snapshot (hi : i = .timerBegin) :
      ExecEnd i s (complete (s.withSeq { s.seq with tbMs := s.timer.msCount, tbPh := s.timer.cnt }))
  | output (bs : List Byte) (hi : Sends i) (hb : bs ≠ []) : ExecEnd i s (emitBytes bs s)
  | event (e : OutEvent) (hi : Drives i) (he : e.isResponse = false) : ExecEnd i s (complete (emit e s))
  | steadyRead (p : Byte) (l : Bool) (hi : i = .readDigital p) (hw : s.seq.wt ≠ 0#16) :
      ExecEnd i s (enterWait .rsettle (armSteady l s))
  | conversion (p : Byte) (hi : i = .readAnalog p) : ExecEnd i s (enterWait .adc
      ((emit (.adcStart p) s).withEnv { (emit (.adcStart p) s).env with adc := .converting p }))
  | byteWait (w : Opw) (hi : i = .charReceive ∧ w = .cr ∨ i = .charGoto ∧ w = .cg) :
      ExecEnd i s (enterWait w (setWatch false s))
  | badSlot (a k : Byte) (hi : i = .loop a k) (hs : s.store.loopCount.toNat ≤ k.toNat) :
      ExecEnd i s (raiseFault .badSlot s)
  | loopBack (a k : Byte) (hi : i = .loop a k) (hk : k.toNat < 10)
      (hj : (s.store.slots[k.toNat]).jumps = true) :
      ExecEnd i s (complete (jump a (countSlot ⟨k.toNat, hk⟩ s)))
  | loopEnd (a k : Byte) (hi : i = .loop a k) (hk : k.toNat < 10)
      (hj : (s.store.slots[k.toNat]).jumps = false) :
      ExecEnd i s (complete (countSlot ⟨k.toNat, hk⟩ s))
  | goto (a : Byte) (hi : i = .goto a) : ExecEnd i s (complete (jump a s))

theorem decDigits_ne_nil (n v : Nat) : decDigits (n + 1) v ≠ [] := by
  unfold decDigits
  split <;> simp

theorem dec_ne_nil (v : Nat) : dec v ≠ [] := decDigits_ne_nil 9 v

theorem drivePin_end {i : Instr} {p : Byte} {m : PinMode} {s t : State} (hi : Drives i)
    (h : drivePin p m s = .next t) : ExecEnd i s t := by
  obtain ⟨_, rfl⟩ := drivePin_next.1 h
  exact .event _ hi rfl

theorem withPinLevel_end {i : Instr} {p : Byte} {s t : State} {k : Bool → State}
    (hk : ∀ l, ExecEnd i s (k l)) (h : withPinLevel p s k = .next t) : ExecEnd i s t := by
  obtain ⟨l, _, rfl⟩ := withPinLevel_next.1 h
  exact hk l

theorem execReadDigital_end {p : Byte} {s t : State} (h : execReadDigital p s = .next t) :
    ExecEnd (.readDigital p) s t := by
  refine withPinLevel_end (fun l => ?_) h
  split
  next => exact .output _ (.inr (.inr ⟨p, rfl⟩)) (List.cons_ne_nil _ _)
  next hw => exact .steadyRead p l rfl hw

theorem execLoop_end {a k : Byte} {s t : State} (h : execLoop a k s = .next t) :
    ExecEnd (.loop a k) s t := by
  unfold execLoop at h
  split at h
  next hs =>
    cases next_inj.1 h
    exact .badSlot a k rfl hs
  next =>
    split at h
    next hk =>
      cases next_inj.1 h
      split
      next hj => exact .loopBack a k rfl hk hj
      next hj => exact .loopEnd a k rfl hk (by simpa using hj)
    next => cases h

/-- Every dispatch part that goes on ends in one of the ways `ExecEnd` lists (R117). -/
theorem exec_end {i : Instr} {s t : State} (h : exec i s = .next t) : ExecEnd i s t := by
  cases i with
  | waitHigh p => cases next_inj.1 h; exact .levelWait true true rfl
  | waitLow p => cases next_inj.1 h; exact .levelWait false true rfl
  | waitChange p => exact withPinLevel_end (fun l => .levelWait (!l) true rfl) h
  | rawWaitHigh p => cases next_inj.1 h; exact .levelWait true false rfl
  | rawWaitLow p => cases next_inj.1 h; exact .levelWait false false rfl
  | rawWaitChange p => exact withPinLevel_end (fun l => .levelWait (!l) false rfl) h
  | setWaitTime v => cases next_inj.1 h; exact .window v rfl
  | delayMs v => cases next_inj.1 h; exact .msDelay v rfl
  | delayUs v =>
    simp only [exec, execDelayUs] at h
    split at h
    next hv => cases next_inj.1 h; exact .nothing (.inr (congrArg _ hv))
    next hv => cases next_inj.1 h; exact .usDelay v rfl hv
  | timerBegin => cases next_inj.1 h; exact .snapshot rfl
  | timerEnd =>
    cases next_inj.1 h
    exact .output _ (.inl rfl) (List.append_ne_nil_of_left_ne_nil (dec_ne_nil _) _)
  | setPwm p v =>
    simp only [exec, execSetPwm] at h
    split at h
    next =>
      split at h
      next => cases next_inj.1 h; exact .event _ (.inl ⟨p, v, rfl⟩) rfl
      next => cases h
    next => cases h
  | setHigh p => exact drivePin_end (.inr (.inl ⟨p, rfl⟩)) h
  | setLow p => exact drivePin_end (.inr (.inr (.inl ⟨p, rfl⟩))) h
  | setTristate p => exact drivePin_end (.inr (.inr (.inr ⟨p, rfl⟩))) h
  | readDigital p => exact execReadDigital_end h
  | readAnalog p =>
    simp only [exec, execReadAnalog] at h
    split at h
    next =>
      split at h
      next => cases next_inj.1 h; exact .conversion p rfl
      next => cases h
    next => cases h
  | charTransmit b => cases next_inj.1 h; exact .output _ (.inr (.inl ⟨b, rfl⟩)) (List.cons_ne_nil _ _)
  | charReceive => cases next_inj.1 h; exact .byteWait .cr (.inl ⟨rfl, rfl⟩)
  | charGoto => cases next_inj.1 h; exact .byteWait .cg (.inr ⟨rfl, rfl⟩)
  | loop a k => exact execLoop_end h
  | goto a => cases next_inj.1 h; exact .goto a rfl
  | noop => cases next_inj.1 h; exact .nothing (.inl rfl)

/-! ### The poll parts (R120) -/

/-- How a poll ends, when the machine goes on. -/
inductive PollEnd (s : State) : State → Prop
  | stay : PollEnd s s
  | ended (hw : s.seq.opw = .level ∨ s.seq.opw = .dms) : PollEnd s (complete s)
  | settle (hw : s.seq.opw = .level) (hd : s.seq.deb = true) :
      PollEnd s ((armOneshot s.seq.wt s).withSeq { (armOneshot s.seq.wt s).seq with opw := .settle })
  | restored (hw : s.seq.opw = .settle ∨ s.seq.opw = .rsettle) : PollEnd s (complete (restore s))
  | unsettled (hw : s.seq.opw = .settle) :
      PollEnd s ((restore s).withSeq { (restore s).seq with opw := .level })
  | rearmed (l : Bool) (hw : s.seq.opw = .rsettle) : PollEnd s (armSteady l s)
  | steady (l : Bool) (hw : s.seq.opw = .rsettle) : PollEnd s (emitLevel l (restore s))
  | delayed (hw : s.seq.opw = .dus) : PollEnd s (complete (setSvcEn true (restore s)))
  | cancelled (hw : s.seq.opw = .cr ∨ s.seq.opw = .cg) : PollEnd s (complete (setWatch true s))
  | byte (b : Byte) (bs : List Byte) (hw : s.seq.opw = .cr ∨ s.seq.opw = .cg) (hc : s.seq.cancel = false)
      (hq : s.env.rxq = b :: bs) : PollEnd s (complete (noteQuit b (setWatch true (dropRx s))))
  | badTarget (b : Byte) (bs : List Byte) (hw : s.seq.opw = .cg) (hq : s.env.rxq = b :: bs)
      (hf : s.cfg.cgOor = .fault) : PollEnd s (raiseFault .badTarget (setWatch true (dropRx s)))
  | jumped (b : Byte) (bs : List Byte) (hw : s.seq.opw = .cg) (hq : s.env.rxq = b :: bs) :
      PollEnd s (complete (jump b (setWatch true (dropRx s))))
  | converted (r : Word16) (hw : s.seq.opw = .adc) :
      PollEnd s (emitBytes (dec r.toNat ++ s.cfg.eol.bytes) s)
  | sending (b : Byte) (bs : List Byte) (hw : s.seq.opw = .tx) (hb : bs ≠ []) :
      PollEnd s ((emit (.txPush b) s).withSeq { (emit (.txPush b) s).seq with outq := bs })
  | sent (b : Byte) (hw : s.seq.opw = .tx) :
      PollEnd s (complete ((emit (.txPush b) s).withSeq { (emit (.txPush b) s).seq with outq := [] }))

theorem pollLevel_end {s t : State} (hw : s.seq.opw = .level) (h : pollLevel s = .next t) : PollEnd s t := by
  unfold pollLevel at h
  split at h
  next =>
    cases next_inj.1 h
    exact .ended (.inl hw)
  next =>
    obtain ⟨l, _, rfl⟩ := withPinLevel_next.1 h
    unfold levelSampled
    split
    next =>
      split
      next hd => exact .settle hw hd
      next => exact .ended (.inl hw)
    next => exact .stay

theorem pollSettle_end {s t : State} (hw : s.seq.opw = .settle) (h : pollSettle s = .next t) :
    PollEnd s t := by
  unfold pollSettle at h
  split at h
  next =>
    cases next_inj.1 h
    exact .restored (.inl hw)
  next =>
    obtain ⟨l, _, rfl⟩ := withPinLevel_next.1 h
    unfold settleSampled
    split
    next =>
      split
      next => exact .restored (.inl hw)
      next => exact .stay
    next => exact .unsettled hw

theorem pollRsettle_end {s t : State} (hw : s.seq.opw = .rsettle) (h : pollRsettle s = .next t) :
    PollEnd s t := by
  unfold pollRsettle at h
  split at h
  next =>
    cases next_inj.1 h
    exact .restored (.inr hw)
  next =>
    obtain ⟨l, _, rfl⟩ := withPinLevel_next.1 h
    unfold rsettleSampled
    split
    next =>
      split
      next => exact .steady _ hw
      next => exact .stay
    next => exact .rearmed l hw

theorem pollDms_end {s t : State} (hw : s.seq.opw = .dms) (h : pollDms s = .next t) : PollEnd s t := by
  unfold pollDms at h
  split at h
  next => cases next_inj.1 h; exact .ended (.inr hw)
  next =>
    split at h
    next => cases next_inj.1 h; exact .ended (.inr hw)
    next => cases next_inj.1 h; exact .stay

theorem pollDus_end {s t : State} (hw : s.seq.opw = .dus) (h : pollDus s = .next t) : PollEnd s t := by
  unfold pollDus at h
  split at h
  next => cases next_inj.1 h; exact .delayed hw
  next => cases next_inj.1 h; exact .stay

theorem pollCr_end {s t : State} (hw : s.seq.opw = .cr) (h : pollCr s = .next t) : PollEnd s t := by
  unfold pollCr at h
  split at h
  next => cases next_inj.1 h; exact .cancelled (.inl hw)
  next hc =>
    split at h
    next => cases next_inj.1 h; exact .stay
    next b bs hq => cases next_inj.1 h; exact .byte b bs (.inl hw) (by simpa using hc) hq

theorem pollCg_end {s t : State} (hw : s.seq.opw = .cg) (h : pollCg s = .next t) : PollEnd s t := by
  unfold pollCg at h
  split at h
  next => cases next_inj.1 h; exact .cancelled (.inr hw)
  next hc =>
    split at h
    next => cases next_inj.1 h; exact .stay
    next b bs hq =>
      cases next_inj.1 h
      unfold charGotoByte
      split
      next => exact .byte b bs (.inr hw) (by simpa using hc) hq
      next =>
        split
        next hf => exact .badTarget b bs hw hq (of_decide_eq_true (Bool.and_eq_true_iff.1 hf).2)
        next => exact .jumped b bs hw hq

theorem pollAdc_end {s t : State} (hw : s.seq.opw = .adc) (h : pollAdc s = .next t) : PollEnd s t := by
  unfold pollAdc at h
  split at h
  next r _ => cases next_inj.1 h; exact .converted r hw
  next => cases next_inj.1 h; exact .stay

theorem pollTx_end {s t : State} (hw : s.seq.opw = .tx) (h : pollTx s = .next t) : PollEnd s t := by
  unfold pollTx at h
  split at h
  next => cases h
  next b bs _ =>
    split at h
    next =>
      cases next_inj.1 h
      split
      next hb => subst hb; exact .sent b hw
      next hb => exact .sending b bs hw hb
    next => cases next_inj.1 h; exact .stay

/-- Every poll that goes on ends in one of the ways `PollEnd` lists (R120). -/
theorem poll_end {s t : State} (h : poll s = .next t) : PollEnd s t := by
  unfold poll at h
  split at h
  next => cases h
  next hw => exact pollLevel_end hw h
  next hw => exact pollSettle_end hw h
  next hw => exact pollRsettle_end hw h
  next hw => exact pollDms_end hw h
  next hw => exact pollDus_end hw h
  next hw => exact pollCr_end hw h
  next hw => exact pollCg_end hw h
  next hw => exact pollAdc_end hw h
  next hw => exact pollTx_end hw h

/-! ### One step of the FSM (R110–R115) -/

/-- The offered command is off the port (R110). -/
def takeOffer (s : State) : State := s.withEnv { s.env with port := none }

/-- The state is in IDLE with this command on the port (R110). -/
def Offered (s : State) (c : Command) : Prop := s.seq.fsm = .idle ∧ s.env.port = some c

/-- The head step reads this record at PC (R115). -/
def Fetches (s : State) (r : Rec) : Prop :=
  s.seq.fsm = .runHead ∧ s.seq.cancel = false ∧ s.seq.pc.toNat < s.store.stepCount.toNat ∧
    storeRead s.store s.seq.pc.toNat = some r

/-- How one step of the FSM ends, when the machine goes on. -/
inductive FsmEnd (s : State) : State → Prop
  | still : FsmEnd s s
  | program (ho : Offered s .program) : FsmEnd s (acceptProgram (takeOffer s))
  | finish (ho : Offered s .finish) : FsmEnd s (acceptEnd (takeOffer s))
  | refused (r : Rec) (n : Word16) (ho : Offered s (.submit r n)) :
      FsmEnd s (respond .badOpcode (takeOffer s))
  | recorded (r : Rec) (n : Word16) (ho : Offered s (.submit r n)) (ht : (recTag r).toNat ≤ 0x16)
      (hm : s.seq.execMode = .recording) : FsmEnd s (append r n (takeOffer s))
  | skipped (r : Rec) (n : Word16) (ho : Offered s (.submit r n)) (ht : (recTag r).toNat ≤ 0x16)
      (hm : s.seq.execMode = .immediate) : FsmEnd s (finishImm (loadImmediate r (takeOffer s)))
  | immediate (r : Rec) (n : Word16) (i : Instr) (t : State) (ho : Offered s (.submit r n))
      (ht : (recTag r).toNat ≤ 0x16) (hm : s.seq.execMode = .immediate) (hs : skippedTag (recTag r) = false)
      (hd : decode r = .instr i) (he : ExecEnd i (loadImmediate r (takeOffer s)) t) : FsmEnd s t
  | runNone (ho : Offered s (.run 0#16)) : FsmEnd s (respond (.done false)
      ((takeOffer s).withSeq { s.seq with cancel := false, lastCancelled := false }))
  | runStart (n : Word16) (ho : Offered s (.run n)) (hn : n ≠ 0#16) :
      FsmEnd s (((takeOffer s).withStore (clearActive s.store)).withSeq
        { s.seq with cancel := false, iter := n, pc := 0#9, ctx := .run, watchQuit := true, fsm := .runHead })
  | cancelRun (hf : s.seq.fsm = .runHead) (hc : s.seq.cancel = true) : FsmEnd s (finishRun true s)
  | fetched (r : Rec) (i : Instr) (t : State) (hr : Fetches s r) (hd : decode r = .instr i)
      (he : ExecEnd i (loadFetched r s) t) : FsmEnd s t
  | illegal (r : Rec) (tag : Byte) (hr : Fetches s r) (hd : decode r = .reserved tag) :
      FsmEnd s (raiseFault .illegalTag (loadFetched r s))
  | lastPass (hf : s.seq.fsm = .runHead) (hc : s.seq.cancel = false)
      (hp : s.store.stepCount.toNat ≤ s.seq.pc.toNat) (hi : s.seq.iter = 1#16) :
      FsmEnd s (finishRun false (s.withSeq { s.seq with iter := 0#16 }))
  | nextPass (hf : s.seq.fsm = .runHead) (hc : s.seq.cancel = false)
      (hp : s.store.stepCount.toNat ≤ s.seq.pc.toNat) (hi : s.seq.iter ≠ 1#16) : FsmEnd s (nextPass s)
  | polled (t : State) (hf : s.seq.fsm = .opWait) (he : PollEnd s t) : FsmEnd s t

theorem acceptSubmit_end {r : Rec} {n : Word16} {s t : State} (ho : Offered s (.submit r n))
    (h : acceptSubmit r n (takeOffer s) = .next t) : FsmEnd s t := by
  unfold acceptSubmit at h
  split at h
  next ht =>
    have ht' : (recTag r).toNat ≤ 0x16 := of_decide_eq_true ht
    split at h
    next hm =>
      cases next_inj.1 h
      exact .recorded r n ho ht' hm
    next hm =>
      simp only [Machine.immediate] at h
      split at h
      next =>
        cases next_inj.1 h
        exact .skipped r n ho ht' hm
      next hs =>
        obtain ⟨i, hd⟩ := decode_of_defined ht'
        simp only [dispatch, hd] at h
        exact .immediate r n i t ho ht' hm (by simpa using hs) hd (exec_end h)
  next =>
    cases next_inj.1 h
    exact .refused r n ho

theorem accept_end {c : Command} {s t : State} (ho : Offered s c)
    (h : accept c (takeOffer s) = .next t) : FsmEnd s t := by
  cases c with
  | program => cases next_inj.1 h; exact .program ho
  | finish => cases next_inj.1 h; exact .finish ho
  | submit r n => exact acceptSubmit_end ho h
  | run n =>
    cases next_inj.1 h
    simp only [acceptRun]
    split
    next hn => exact .runNone (hn ▸ ho)
    next hn => exact .runStart n ho hn

theorem idleStep_end {s t : State} (hf : s.seq.fsm = .idle) (h : idleStep s = .next t) : FsmEnd s t := by
  unfold idleStep at h
  split at h
  next => cases next_inj.1 h; exact .still
  next c hp => exact accept_end ⟨hf, hp⟩ h

theorem headStep_end {s t : State} (hf : s.seq.fsm = .runHead) (h : headStep s = .next t) :
    FsmEnd s t := by
  obtain ⟨hc, rfl⟩ | ⟨hc, hp, r, hr, hd⟩ | ⟨hc, hp, rfl⟩ := headStep_cases h
  · exact .cancelRun hf hc
  · obtain ⟨i, hi, he⟩ | ⟨tag, hi, rfl⟩ := dispatch_cases hd
    · exact .fetched r i t ⟨hf, hc, hp, hr⟩ hi (exec_end he)
    · exact .illegal r tag ⟨hf, hc, hp, hr⟩ hi
  · unfold endPass
    split
    next hi => exact .lastPass hf hc hp hi
    next hi => exact .nextPass hf hc hp hi

/-- Every FSM step that goes on ends in one of the ways `FsmEnd` lists. -/
theorem fsmTransition_end {s t : State} (h : fsmTransition s = .next t) : FsmEnd s t := by
  obtain ⟨hf, hi⟩ | ⟨hf, hh⟩ | ⟨hf, hp⟩ | ⟨_, rfl⟩ := fsmTransition_cases h
  · exact idleStep_end hf hi
  · exact headStep_end hf hh
  · exact .polled t hf (poll_end hp)
  · exact .still

/-! ### One step of the machine -/

/-- The block and the schedule are as they were: only the environment's own part may have moved (R7). -/
structure OnlyEnv (s t : State) : Prop where
  seq : t.seq = s.seq
  store : t.store = s.store
  timer : t.timer = s.timer
  sched : t.sched = s.sched
  cfg : t.cfg = s.cfg

/-- A move of the environment is the reset input or writes the environment alone (R9–R13, R240). -/
theorem envMove_end {m : Move} {s t : State} (hf : m ≠ .fsm) (ht : m ≠ .tick)
    (h : applyMove m s = .next t) : (m = .reset ∧ t = blockReset s) ∨ OnlyEnv s t := by
  cases m with
  | fsm => exact absurd rfl hf
  | tick => exact absurd rfl ht
  | rx b => cases next_inj.1 h; exact .inr ⟨rfl, rfl, rfl, rfl, rfl⟩
  | pinLevel p l => cases next_inj.1 h; exact .inr ⟨rfl, rfl, rfl, rfl, rfl⟩
  | txReady r => cases next_inj.1 h; exact .inr ⟨rfl, rfl, rfl, rfl, rfl⟩
  | adcFinish raw =>
    cases next_inj.1 h
    unfold finishConversion
    split <;> exact .inr ⟨rfl, rfl, rfl, rfl, rfl⟩
  | issue c =>
    cases next_inj.1 h
    unfold offer
    split <;> exact .inr ⟨rfl, rfl, rfl, rfl, rfl⟩
  | frontEndPop =>
    cases next_inj.1 h
    unfold frontEndPop
    split <;> exact .inr ⟨rfl, rfl, rfl, rfl, rfl⟩
  | reset => exact .inl ⟨rfl, (next_inj.1 h).symm⟩

/-- Every step is a step of the FSM with no poll owed, a tick, the reset input, or the environment's own. -/
theorem step_end {s t : State} (h : step s = .next t) :
    (∃ d : Sched, d.pollOwed = false ∧ FsmEnd (s.withSched d) t) ∨
    (nextMove s = .tick ∧ t = oweWhileWaiting (tick (consume s))) ∨
    (nextMove s = .reset ∧ t = blockReset (consume s)) ∨ OnlyEnv (consume s) t := by
  obtain ⟨d, hd, _, hf⟩ | ⟨hf, _, hm⟩ := step_cases h
  · exact .inl ⟨d, hd, fsmTransition_end hf⟩
  · by_cases ht : nextMove s = .tick
    · rw [ht] at hm
      exact .inr (.inl ⟨ht, (next_inj.1 hm).symm⟩)
    · exact .inr (.inr (envMove_end hf ht hm))

end Sys2Proof.Machine
end

section
/-! PROOFS. The machine's invariant (10_state.md R22, R28, R30, R32, R40, R42, R45, R53; 40_engine.md R128): it holds
after reset and every step keeps it. A step in progress passes through `Ready` states, in which the one-shot is put
away, the queue is empty and the watch is on; every way a dispatch part or a poll ends from such a state gives the
invariant back. -/

namespace Sys2Proof.Machine

/-! ### Parts of the invariant that a step in progress keeps throughout -/

/-- Every active slot has a count no larger than its initial count (R40). -/
def SlotsBounded (m : Store) : Prop :=
  ∀ k : Fin 10, (m.slots[k.val]).act = true → (m.slots[k.val]).cur.toNat ≤ (m.slots[k.val]).init.toNat

/-- The parts of the invariant that do not depend on what the FSM is doing. -/
structure Grounded (s : State) : Prop where
  params : s.cfg.wf = true
  store : StoreOk s.store
  pc_bound : s.seq.pc.toNat ≤ 256
  no_poll_owed : s.sched.pollOwed = false
  service_phase : s.timer.svcCnt.toNat < s.cfg.svcPeriod.toNat

/-- A step in progress outside the waits that take something over: OUTQ is empty, the watch and channel C are on, and
the shared counter is in MS mode. -/
structure Ready (s : State) : Prop extends Grounded s where
  in_run : s.seq.ctx = .run → s.seq.iter ≠ 0#16 ∧ SlotsBounded s.store
  no_output : s.seq.outq = []
  watching : s.seq.watchQuit = true
  time_base : MsPhase s.cfg.ticksPerMs s.timer
  no_match : s.timer.osDone = false
  service_on : s.timer.svcEn = true

theorem SequencerOk.ctx_of_running {q : Seq} (h : SequencerOk q) (hr : running q) : q.ctx = .run := by
  obtain hf | ⟨_, hc⟩ := hr
  · cases hc : q.ctx with
    | run => rfl
    | imm => exact absurd (hf.symm.trans (h.context.imm_waits hc)) (by decide)
  · exact hc

theorem Grounded.inv {s : State} (h : Grounded s)
    (hr : running s.seq → s.seq.iter ≠ 0#16 ∧ SlotsBounded s.store) (hq : SequencerOk s.seq)
    (ha : ArbiterOk s) : Inv s where
  params := h.params
  sequencer := hq
  arbiter := ha
  store := h.store
  loops hr' := (hr hr').2
  counters := ⟨h.pc_bound, fun hr' => (hr hr').1⟩
  poll_owed ho := absurd (h.no_poll_owed.symm.trans ho) (by decide)

theorem Ready.inv {s : State} (h : Ready s) (hq : SequencerOk s.seq) (ha : ArbiterOk s) : Inv s :=
  h.toGrounded.inv (fun hr => h.in_run (hq.ctx_of_running hr)) hq ha

theorem not_running_of_idle {q : Seq} (h : q.fsm = .idle) : ¬ running q := by
  simp [running, h]

theorem not_running_of_fault {q : Seq} (h : q.fsm = .fault) : ¬ running q := by
  simp [running, h]

/-! ### The sequencer's part, in a wait and outside -/

/-- Outside OP_WAIT (R30, R32). -/
theorem sequencerOk_of_not_waiting {q : Seq} (hf : q.fsm ≠ .opWait) (hw : q.opw = .none) (ho : q.outq = [])
    (hq : q.watchQuit = true ↔ q.fsm = .runHead) (hc : q.ctx = .run) : SequencerOk q where
  waits := ⟨by simp [hf, hw], by simp [hw, ho]⟩
  watch := by simp [WatchExact, hf, hw, hq]
  context := ⟨by simp [hc], by simp [hc]⟩
  windows := ⟨by simp [hw], by simp [hw], by simp [hw]⟩

/-- In OP_WAIT (R30, R32, R119). -/
theorem sequencerOk_of_waiting {q : Seq} (hf : q.fsm = .opWait) (hw : q.opw ≠ .none)
    (ho : q.opw = .tx ↔ q.outq ≠ []) (hq : q.watchQuit = true ↔ q.opw ≠ .cr ∧ q.opw ≠ .cg)
    (hc : q.opw = .cg → q.ctx = .run) (hd : WindowOk q) : SequencerOk q where
  waits := ⟨by simp [hf, hw], ho⟩
  watch := by simp [WatchExact, hf, hq]
  context := ⟨fun _ => hf, hc⟩
  windows := hd

/-! ### The arbiter's part, by the owner of the shared counter -/

theorem arbiterOk_of_ms {s : State} (hw : s.seq.opw.usesOneShot = false) (hm : MsPhase s.cfg.ticksPerMs s.timer)
    (hd : s.timer.osDone = false) (he : s.timer.svcEn = true)
    (hp : s.timer.svcCnt.toNat < s.cfg.svcPeriod.toNat) : ArbiterOk s where
  one_shot h := absurd (hw.symm.trans h) (by decide)
  ms_mode _ := ⟨hm, hd⟩
  service_off := by
    rw [he]
    refine ⟨fun h => (nomatch h), fun h => ?_⟩
    rw [h] at hw
    exact absurd hw (by decide)
  service_phase := hp

theorem Ready.arbiter {s : State} (h : Ready s) (hw : s.seq.opw.usesOneShot = false) : ArbiterOk s :=
  arbiterOk_of_ms hw h.time_base h.no_match h.service_on h.service_phase

theorem arbiterOk_of_os {s : State} (hw : s.seq.opw.usesOneShot = true) (ho : OneShot s.cfg.ticksPerMs s.timer)
    (he : s.timer.svcEn = false ↔ s.seq.opw = .dus) (hp : s.timer.svcCnt.toNat < s.cfg.svcPeriod.toNat) :
    ArbiterOk s where
  one_shot _ := ho
  ms_mode h := absurd (hw.symm.trans h) (by decide)
  service_off := he
  service_phase := hp

/-- Arming from MS mode saves the phase and starts below the compare (R136). -/
theorem MsPhase.arm {p w : Word16} {t : Timer} (h : MsPhase p t) (hw : w ≠ 0#16) : OneShot p (t.arm w) where
  mode := rfl
  saved := by
    rw [Timer.arm_phSave_ms w h.mode]
    exact h.phase
  armed := Nat.pos_of_ne_zero fun h0 => hw (BitVec.eq_of_toNat_eq h0)
  counting := Nat.zero_le _
  matched := ⟨fun hd => (nomatch hd), fun hc => absurd hc.symm hw⟩

/-- Restoring gives the counter back to channel A at its saved phase (R137). -/
theorem OneShot.restore {p : Word16} {t : Timer} (h : OneShot p t) : MsPhase p (t.restore p) :=
  ⟨rfl, rfl, h.saved⟩

/-- A re-arm keeps the saved phase (R136), so it is an arm of the restored counter. -/
theorem Timer.arm_restore {p w : Word16} {t : Timer} (h : t.tmode = .os) : (t.restore p).arm w = t.arm w := by
  simp [Timer.arm, Timer.restore, h]

/-! ### How a step ends, from a ready state -/

theorem Ready.runHead {s : State} (h : Ready s) (hf : s.seq.fsm = .runHead) (hw : s.seq.opw = .none)
    (hc : s.seq.ctx = .run) : Inv s :=
  h.inv (sequencerOk_of_not_waiting (by simp [hf]) hw h.no_output (by simp [hf, h.watching]) hc)
    (h.arbiter (by rw [hw]; rfl))

/-- A run that ends returns the FSM to IDLE, whatever ITER is left at (R116). -/
theorem Ready.finishRun {s : State} (h : Ready s) (c : Bool) (n : Word16) (hw : s.seq.opw = .none) :
    Inv (finishRun c (s.withSeq { s.seq with iter := n })) :=
  Grounded.inv { h with } (fun hr => absurd hr (not_running_of_idle rfl))
    (sequencerOk_of_not_waiting (by simp) hw h.no_output (by simp) rfl)
    (arbiterOk_of_ms (by simp [hw, Opw.usesOneShot]) h.time_base h.no_match h.service_on h.service_phase)

/-- An immediate step that ends returns the FSM to IDLE (R122). -/
theorem Ready.finishImm {s : State} (h : Ready s) (hw : s.seq.opw = .none) : Inv (finishImm s) :=
  Grounded.inv { h with } (fun hr => absurd hr (not_running_of_idle rfl))
    (sequencerOk_of_not_waiting (by simp) hw h.no_output (by simp) rfl)
    (arbiterOk_of_ms (by simp [hw, Opw.usesOneShot]) h.time_base h.no_match h.service_on h.service_phase)

/-- complete() (R121). -/
theorem Ready.complete {s : State} (h : Ready s) : Inv (complete s) := by
  cases hc : s.seq.ctx with
  | run =>
    rw [complete_run hc]
    exact Ready.runHead { h with } rfl rfl hc
  | imm =>
    rw [complete_imm hc]
    exact Ready.finishImm (s := s.withSeq { s.seq with opw := .none }) { h with in_run := h.in_run } rfl

/-- raise Fault in a run (R209). -/
theorem Ready.raiseFault {s : State} (h : Ready s) (k : FaultKind) (hc : s.seq.ctx = .run) :
    Inv (raiseFault k s) :=
  Grounded.inv { h with } (fun hr => absurd hr (not_running_of_fault rfl))
    (sequencerOk_of_not_waiting (by simp) rfl h.no_output (by simp) hc)
    (arbiterOk_of_ms rfl h.time_base h.no_match h.service_on h.service_phase)

theorem windowOk_of_no_window {q : Seq} (hl : q.opw ≠ .level) (hs : q.opw ≠ .settle) (hr : q.opw ≠ .rsettle) :
    WindowOk q :=
  ⟨fun h => absurd h hs, fun h => absurd h (not_or.2 ⟨hl, hs⟩), fun h => absurd h hr⟩

/-- The LEVEL wait (R143): a debounced one has a window. -/
theorem Ready.levelWait {s : State} (h : Ready s) (hd : s.seq.deb = true → s.seq.wt ≠ 0#16) :
    Inv (enterWait .level s) :=
  Ready.inv { h with }
    (sequencerOk_of_waiting rfl (by simp) (by simp [h.no_output]) (by simp [h.watching]) (by simp)
      ⟨by simp, fun _ => hd, by simp⟩)
    (Ready.arbiter { h with } rfl)

/-- The waits that take nothing over (R153, R175). -/
theorem Ready.plainWait {s : State} (h : Ready s) {w : Opw} (hw : w = .dms ∨ w = .adc) :
    Inv (enterWait w s) := by
  have hq : SequencerOk (enterWait w s).seq := by
    obtain rfl | rfl := hw <;>
      exact sequencerOk_of_waiting rfl (by simp) (by simp [h.no_output]) (by simp [h.watching]) (by simp)
        (windowOk_of_no_window (by simp) (by simp) (by simp))
  exact Ready.inv { h with } hq (Ready.arbiter { h with } (by obtain rfl | rfl := hw <;> rfl))

/-- The TX wait has a byte to send (R30, R123). -/
theorem Ready.emitBytes {s : State} (h : Ready s) {bs : List Byte} (hb : bs ≠ []) : Inv (emitBytes bs s) :=
  have hq : SequencerOk (Machine.emitBytes bs s).seq :=
    sequencerOk_of_waiting rfl (by simp) (by simp [hb]) (by simp [h.watching]) (by simp)
      (windowOk_of_no_window (by simp) (by simp) (by simp))
  Grounded.inv { h with } (fun hr => h.in_run (hq.ctx_of_running hr)) hq
    (arbiterOk_of_ms rfl h.time_base h.no_match h.service_on h.service_phase)

/-- The waits for a byte turn the watch off (R181, R190); CG is a run's alone (R119). -/
theorem Ready.byteWait {s : State} (h : Ready s) {w : Opw} (hw : w = .cr ∨ w = .cg ∧ s.seq.ctx = .run) :
    Inv (enterWait w (setWatch false s)) := by
  have hq : SequencerOk (enterWait w (setWatch false s)).seq := by
    obtain rfl | ⟨rfl, hc⟩ := hw
    · exact sequencerOk_of_waiting rfl (by simp) (by simp [h.no_output]) (by simp) (by simp)
        (windowOk_of_no_window (by simp) (by simp) (by simp))
    · exact sequencerOk_of_waiting rfl (by simp) (by simp [h.no_output]) (by simp) (fun _ => hc)
        (windowOk_of_no_window (by simp) (by simp) (by simp))
  refine Grounded.inv { h with } (fun hr => h.in_run (hq.ctx_of_running hr)) hq ?_
  refine arbiterOk_of_ms ?_ h.time_base h.no_match h.service_on h.service_phase
  obtain rfl | ⟨rfl, _⟩ := hw <;> rfl

theorem Opw.usesOneShot_iff {w : Opw} : w.usesOneShot = true ↔ w = .settle ∨ w = .rsettle ∨ w = .dus := by
  cases w <;> simp [Opw.usesOneShot]

theorem Opw.ne_dus_of_not_oneShot {w : Opw} (h : w.usesOneShot = false) : w ≠ .dus := by
  rintro rfl
  exact absurd h (by decide)

theorem Opw.ne_of_oneShot {w w' : Opw} (h : w.usesOneShot = true) (h' : w'.usesOneShot = false) : w ≠ w' := by
  rintro rfl
  exact absurd (h.symm.trans h') (by decide)

/-- The waits of the one-shot (R42, R45): armed with a window, channel C off in DUS alone. -/
theorem Ready.oneShotWait {s : State} (h : Ready s) {w : Opw} {v : Word16} {en : Bool}
    (hw : w.usesOneShot = true) (hv : v ≠ 0#16) (he : en = false ↔ w = .dus)
    (hd : WindowOk { s.seq with opw := w, fsm := .opWait }) :
    Inv (enterWait w (armOneshot v (setSvcEn en s))) := by
  have hq : SequencerOk (enterWait w (armOneshot v (setSvcEn en s))).seq := by
    obtain rfl | rfl | rfl := Opw.usesOneShot_iff.1 hw <;>
      exact sequencerOk_of_waiting rfl (by simp) (by simp [h.no_output]) (by simp [h.watching]) (by simp) hd
  have hm : MsPhase s.cfg.ticksPerMs (setSvcEn en s).timer := { h.time_base with }
  exact Grounded.inv { h with } (fun hr => h.in_run (hq.ctx_of_running hr)) hq
    (arbiterOk_of_os hw (hm.arm hv) he h.service_phase)

theorem Ready.setSvcEn_true {s : State} (h : Ready s) : setSvcEn true s = s := by
  rw [setSvcEn, ← h.service_on]
  rfl

/-- SETTLE and RSETTLE keep channel C on (R45). -/
theorem Ready.windowWait {s : State} (h : Ready s) {w : Opw} {v : Word16} (hw : w.usesOneShot = true)
    (hn : w ≠ .dus) (hv : v ≠ 0#16) (hd : WindowOk { s.seq with opw := w, fsm := .opWait }) :
    Inv (enterWait w (armOneshot v s)) := by
  have hi := h.oneShotWait (en := true) hw hv (by simp [hn]) hd
  rwa [h.setSvcEn_true] at hi

theorem Ready.steadyWait {s : State} (h : Ready s) (l : Bool) (hw : s.seq.wt ≠ 0#16) :
    Inv (enterWait .rsettle (armSteady l s)) :=
  Ready.windowWait (s := s.withSeq { s.seq with lvl := l }) { h with in_run := h.in_run } rfl (by simp) hw
    ⟨by simp, by simp, fun _ => hw⟩

/-! ### The steps of a dispatch part that keep the state ready -/

theorem Ready.emit {s : State} (h : Ready s) (e : OutEvent) : Ready (emit e s) := { h with in_run := h.in_run }

theorem pcOf_le (b : Byte) : (pcOf b).toNat ≤ 256 := by
  have := b.isLt
  simp only [pcOf, BitVec.toNat_setWidth]
  omega

theorem Ready.jump {s : State} (h : Ready s) (a : Byte) : Ready (jump a s) :=
  { h with pc_bound := pcOf_le a, in_run := h.in_run }

/-- A used slot keeps its bound (R40, R191). -/
theorem LoopSlot.next_bounded {l : LoopSlot} (h : l.act = true → l.cur.toNat ≤ l.init.toNat) :
    l.next.act = true → l.next.cur.toNat ≤ l.next.init.toNat := by
  have ha : l.activate.cur.toNat ≤ l.init.toNat := by
    unfold LoopSlot.activate
    split
    next hl => exact h hl
    next => exact Nat.le_refl _
  cases hj : l.jumps with
  | false => simp [LoopSlot.next_fall hj]
  | true =>
    intro _
    have hne : l.activate.cur ≠ 0#16 := of_decide_eq_true hj
    rw [LoopSlot.next_init, LoopSlot.next_jump hj]
    refine Nat.le_trans ?_ ha
    bv_omega

theorem SlotsBounded.countSlot {s : State} (h : SlotsBounded s.store) (k : Fin 10) :
    SlotsBounded (countSlot k s).store := by
  intro j
  by_cases hj : j = k
  · subst hj
    simpa [Machine.countSlot] using LoopSlot.next_bounded (h j)
  · have hj' : ¬ k.val = j.val := fun e => hj (Fin.ext e.symm)
    simpa [Machine.countSlot, Vector.getElem_set_ne _ _ hj'] using h j

theorem Ready.countSlot {s : State} (h : Ready s) (k : Fin 10) : Ready (countSlot k s) :=
  { h with store := { h.store with }, in_run := fun hc => ⟨(h.in_run hc).1, (h.in_run hc).2.countSlot k⟩ }

/-! ### Every dispatch part gives the invariant back -/

/-- CharGoto and Loop are dispatched in a run alone (R119). -/
theorem ExecEnd.inv {i : Instr} {s t : State} (h : ExecEnd i s t) (hs : Ready s)
    (hj : i = .charGoto ∨ (∃ a k, i = .loop a k) → s.seq.ctx = .run) : Inv t := by
  cases h with
  | levelWait l d =>
    refine Ready.levelWait (s := s.withSeq { s.seq with lvl := l, deb := debFlag d s.seq.wt })
      { hs with in_run := hs.in_run } ?_
    simp [debFlag]
  | window v => exact Ready.complete { hs with in_run := hs.in_run }
  | msDelay v =>
    refine Ready.plainWait ?_ (.inl rfl)
    exact { hs with in_run := hs.in_run, time_base := { hs.time_base with } }
  | usDelay v _ hv =>
    exact hs.oneShotWait rfl hv (by simp) (windowOk_of_no_window (by simp) (by simp) (by simp))
  | nothing => exact hs.complete
  | snapshot => exact Ready.complete { hs with in_run := hs.in_run }
  | output bs _ hb => exact hs.emitBytes hb
  | event e => exact (hs.emit e).complete
  | steadyRead p l _ hw => exact hs.steadyWait l hw
  | conversion p =>
    refine Ready.plainWait ?_ (.inr rfl)
    exact { hs with in_run := hs.in_run }
  | byteWait w hi =>
    refine hs.byteWait ?_
    obtain ⟨_, hw⟩ | ⟨hi, hw⟩ := hi
    · exact .inl hw
    · exact .inr ⟨hw, hj (.inl hi)⟩
  | badSlot a k hi => exact hs.raiseFault _ (hj (.inr ⟨a, k, hi⟩))
  | loopBack a k => exact ((hs.countSlot _).jump a).complete
  | loopEnd a k => exact (hs.countSlot _).complete
  | goto a => exact (hs.jump a).complete

/-! ### From the invariant to a ready state: what each wait has to put back -/

section Wait

variable {s : State}

theorem Inv.grounded (h : Inv s) (ho : s.sched.pollOwed = false) : Grounded s where
  params := h.params
  store := h.store
  pc_bound := h.counters.pc_bound
  no_poll_owed := ho
  service_phase := h.arbiter.service_phase

theorem Inv.opWait_of_opw (h : Inv s) (hw : s.seq.opw ≠ .none) : s.seq.fsm = .opWait :=
  h.sequencer.waits.wait_named.2 hw

theorem Inv.opw_of_not_waiting (h : Inv s) (hf : s.seq.fsm ≠ .opWait) : s.seq.opw = .none :=
  not_not.1 fun hw => hf (h.opWait_of_opw hw)

theorem Inv.in_run (h : Inv s) (hf : s.seq.fsm = .runHead ∨ s.seq.fsm = .opWait) (hc : s.seq.ctx = .run) :
    s.seq.iter ≠ 0#16 ∧ SlotsBounded s.store :=
  have hr : running s.seq := hf.imp_right fun hw => ⟨hw, hc⟩
  ⟨h.counters.passes_left hr, h.loops hr⟩

theorem Inv.no_output (h : Inv s) (hw : s.seq.opw ≠ .tx) : s.seq.outq = [] :=
  not_not.1 fun ho => hw (h.sequencer.waits.output_pending.2 ho)

theorem Inv.watching (h : Inv s) (hf : s.seq.fsm = .runHead ∨ s.seq.fsm = .opWait) (hr : s.seq.opw ≠ .cr)
    (hg : s.seq.opw ≠ .cg) : s.seq.watchQuit = true :=
  h.sequencer.watch.2 ⟨hf, hr, hg⟩

theorem Inv.service_on (h : Inv s) (hw : s.seq.opw ≠ .dus) : s.timer.svcEn = true :=
  Bool.of_not_eq_false fun he => hw (h.arbiter.service_off.1 he)

/-- CR and CG turn the watch on again when they end (R181, R190); the other waits never turned it off. -/
theorem Inv.ready_watch (h : Inv s) (ho : s.sched.pollOwed = false)
    (hf : s.seq.fsm = .runHead ∨ s.seq.fsm = .opWait) (hs : s.seq.opw.usesOneShot = false)
    (ht : s.seq.opw ≠ .tx) : Ready (setWatch true s) where
  toGrounded := { h.grounded ho with }
  in_run := h.in_run hf
  no_output := h.no_output ht
  watching := rfl
  time_base := (h.arbiter.ms_mode hs).1
  no_match := (h.arbiter.ms_mode hs).2
  service_on := h.service_on (Opw.ne_dus_of_not_oneShot hs)

theorem Inv.ready (h : Inv s) (ho : s.sched.pollOwed = false)
    (hf : s.seq.fsm = .runHead ∨ s.seq.fsm = .opWait) (hs : s.seq.opw.usesOneShot = false)
    (ht : s.seq.opw ≠ .tx) (hr : s.seq.opw ≠ .cr) (hg : s.seq.opw ≠ .cg) : Ready s := by
  have hw : setWatch true s = s := by
    rw [setWatch, ← h.watching hf hr hg]
    rfl
  exact hw ▸ h.ready_watch ho hf hs ht

/-- The TX wait, its bytes sent (R123). -/
theorem Inv.ready_sent (h : Inv s) (ho : s.sched.pollOwed = false) (hw : s.seq.opw = .tx) :
    Ready (s.withSeq { s.seq with outq := [] }) where
  toGrounded := { h.grounded ho with }
  in_run := h.in_run (.inr (h.opWait_of_opw (by simp [hw])))
  no_output := rfl
  watching := h.watching (.inr (h.opWait_of_opw (by simp [hw]))) (by simp [hw]) (by simp [hw])
  time_base := (h.arbiter.ms_mode (by rw [hw]; rfl)).1
  no_match := (h.arbiter.ms_mode (by rw [hw]; rfl)).2
  service_on := h.service_on (by simp [hw])

/-- The waits of the one-shot hand the counter back; DUS also turns channel C on (R137, R154). -/
theorem Inv.ready_handBack (h : Inv s) (ho : s.sched.pollOwed = false) (hs : s.seq.opw.usesOneShot = true) :
    Ready (setSvcEn true (restore s)) where
  toGrounded := { h.grounded ho with }
  in_run := h.in_run (.inr (h.opWait_of_opw (Opw.ne_of_oneShot hs rfl)))
  no_output := h.no_output (Opw.ne_of_oneShot hs rfl)
  watching := h.watching (.inr (h.opWait_of_opw (Opw.ne_of_oneShot hs rfl))) (Opw.ne_of_oneShot hs rfl)
    (Opw.ne_of_oneShot hs rfl)
  time_base := { (h.arbiter.one_shot hs).restore with }
  no_match := rfl
  service_on := rfl

theorem Inv.ready_restore (h : Inv s) (ho : s.sched.pollOwed = false) (hs : s.seq.opw.usesOneShot = true)
    (hd : s.seq.opw ≠ .dus) : Ready (restore s) := by
  have he : setSvcEn true (restore s) = restore s := by
    rw [setSvcEn, ← h.service_on hd]
    rfl
  exact he ▸ h.ready_handBack ho hs

end Wait

/-! ### Every poll keeps the invariant -/

theorem withOpw_eq_enterWait {s : State} (hf : s.seq.fsm = .opWait) (w : Opw) :
    s.withSeq { s.seq with opw := w } = enterWait w s := by
  rw [enterWait, ← hf]

/-- A changed level in RSETTLE takes a full window anew (R174). -/
theorem armSteady_eq_enterWait {s : State} (hf : s.seq.fsm = .opWait) (hw : s.seq.opw = .rsettle)
    (ht : s.timer.tmode = .os) (l : Bool) : armSteady l s = enterWait .rsettle (armSteady l (restore s)) :=
  State.ext_groups (by simp [armSteady, ← hf, ← hw]) rfl (by simp [armSteady, Timer.arm_restore ht]) rfl rfl rfl

/-- A byte sent with more to send leaves the TX wait with the rest (R123). -/
theorem sending_eq_emitBytes {s : State} (hf : s.seq.fsm = .opWait) (hw : s.seq.opw = .tx) (bs : List Byte) :
    s.withSeq { s.seq with outq := bs } = emitBytes bs (s.withSeq { s.seq with outq := [] }) :=
  State.ext_groups (by simp [← hf, ← hw]) rfl rfl rfl rfl rfl

theorem PollEnd.inv {s t : State} (h : PollEnd s t) (hs : Inv s) (ho : s.sched.pollOwed = false)
    (hf : s.seq.fsm = .opWait) : Inv t := by
  have byte_wait (hw : s.seq.opw = .cr ∨ s.seq.opw = .cg) : Ready (setWatch true s) := by
    obtain hw | hw := hw <;> exact hs.ready_watch ho (.inr hf) (by rw [hw]; rfl) (by simp [hw])
  have plain_wait (hw : s.seq.opw = .level ∨ s.seq.opw = .dms ∨ s.seq.opw = .adc) : Ready s := by
    obtain hw | hw | hw := hw <;>
      exact hs.ready ho (.inr hf) (by rw [hw]; rfl) (by simp [hw]) (by simp [hw]) (by simp [hw])
  have settle_wait (hw : s.seq.opw = .settle ∨ s.seq.opw = .rsettle) : Ready (restore s) := by
    obtain hw | hw := hw <;> exact hs.ready_restore ho (by rw [hw]; rfl) (by simp [hw])
  have windows := hs.sequencer.windows
  cases h with
  | stay => exact hs
  | ended hw => exact (plain_wait (hw.imp_right .inl)).complete
  | settle hw hd =>
    have hr := plain_wait (.inl hw)
    have hwt := windows.debounced_window (.inl hw) hd
    rw [withOpw_eq_enterWait (s := armOneshot s.seq.wt s) hf]
    exact hr.windowWait rfl (by simp) hwt ⟨fun _ => hd, fun _ _ => hwt, by simp⟩
  | restored hw => exact (settle_wait hw).complete
  | unsettled hw =>
    rw [withOpw_eq_enterWait (s := restore s) hf]
    exact (settle_wait (.inl hw)).levelWait (windows.debounced_window (.inr hw))
  | rearmed l hw =>
    rw [armSteady_eq_enterWait hf hw (hs.arbiter.one_shot (by rw [hw]; rfl)).mode]
    exact (settle_wait (.inr hw)).steadyWait l (windows.steady_window hw)
  | steady l hw => exact (settle_wait (.inr hw)).emitBytes (List.cons_ne_nil _ _)
  | delayed hw => exact (hs.ready_handBack ho (by rw [hw]; rfl)).complete
  | cancelled hw => exact (byte_wait hw).complete
  | byte b bs hw => exact Ready.complete { byte_wait hw with in_run := (byte_wait hw).in_run }
  | badTarget b bs hw =>
    refine Ready.raiseFault ?_ _ (hs.sequencer.context.jump_in_run hw)
    exact { byte_wait (.inr hw) with in_run := (byte_wait (.inr hw)).in_run }
  | jumped b bs hw =>
    refine (Ready.jump ?_ b).complete
    exact { byte_wait (.inr hw) with in_run := (byte_wait (.inr hw)).in_run }
  | converted r hw =>
    exact (plain_wait (.inr (.inr hw))).emitBytes (List.append_ne_nil_of_left_ne_nil (dec_ne_nil _) _)
  | sending b bs hw hb =>
    rw [sending_eq_emitBytes (s := emit (.txPush b) s) hf hw]
    exact ((hs.ready_sent ho hw).emit (.txPush b)).emitBytes hb
  | sent b hw => exact ((hs.ready_sent ho hw).emit (.txPush b)).complete

/-! ### The append keeps the store (R28, R53, R113) -/

@[simp] theorem recTag_storedRec (c : BitVec 4) (r : Rec) : recTag (storedRec c r) = recTag r := by
  unfold storedRec
  split <;> simp

/-- A stored Loop names the slot its append allocated (R113). -/
theorem slot_of_storedRec {c : BitVec 4} {r : Rec} {t k : Byte} (h : decode (storedRec c r) = .instr (.loop t k)) :
    isLoopRec r = true ∧ k.toNat = c.toNat := by
  obtain ⟨ht, _, rfl⟩ := decode_loop h
  have hl : isLoopRec r = true := decide_eq_true ((recTag_storedRec c r).symm.trans ht)
  refine ⟨hl, ?_⟩
  have := c.isLt
  simp only [storedRec, if_pos hl, recOb1_mkRec, BitVec.toNat_setWidth]
  omega

theorem StoreOk.allocSlot {m : Store} (h : StoreOk m) (n : Word16) : StoreOk (allocSlot n m) := by
  unfold Machine.allocSlot
  split
  next hl =>
    have hc : (m.loopCount + 1#4).toNat = m.loopCount.toNat + 1 := by bv_omega
    refine { h with loop_count := ?_, steps_defined := fun i hi => ?_ }
    · rw [hc]
      exact hl
    · obtain ⟨r, j, hr, hd, hk⟩ := h.steps_defined i hi
      refine ⟨r, j, hr, hd, fun t k hj => ?_⟩
      rw [hc]
      exact Nat.lt_succ_of_lt (hk t k hj)
  next => exact h

theorem arena_mem_storeWrite {m : Store} {i : Nat} {r : Rec} {c : Host.Cell} (h : c ∈ (storeWrite m i r).arena) :
    (∃ k < 4, c.1 = arenaAddr i k) ∨ c ∈ m.arena := by
  obtain h | h := Memory.mem_write h
  · exact .inl ⟨3, by omega, h⟩
  obtain h | h := Memory.mem_write h
  · exact .inl ⟨2, by omega, h⟩
  obtain h | h := Memory.mem_write h
  · exact .inl ⟨1, by omega, h⟩
  obtain h | h := Memory.mem_write h
  · exact .inl ⟨0, by omega, h⟩
  · exact .inr h

/-- Recording one defined step whose slot is allocated (R62, R113). -/
theorem StoreOk.recordStep {m : Store} (h : StoreOk m) {r : Rec} {j : Instr} (hm : m.stepCount.toNat < Config.stepCap)
    (hd : decode r = .instr j) (hk : ∀ t k, j = .loop t k → k.toNat < m.loopCount.toNat) :
    StoreOk { storeWrite m m.stepCount.toNat r with stepCount := m.stepCount + 1#9 } where
  step_count := by
    have hm' : m.stepCount.toNat < 256 := hm
    have hc : (m.stepCount + 1#9).toNat = m.stepCount.toNat + 1 := by bv_omega
    rw [hc]
    exact hm
  loop_count := h.loop_count
  opc_wf := storeWrite_opc_wf h.opc_wf _ _
  arena_wf := storeWrite_arena_wf h.arena_wf _ _
  opc_bound c hc := by
    obtain hc | hc := Memory.mem_write hc
    · rw [hc]
      exact hm
    · exact h.opc_bound c hc
  arena_bound c hc := by
    obtain ⟨k, hk4, hc⟩ | hc := arena_mem_storeWrite hc
    · rw [hc]
      simp only [arenaAddr, Config.operandBytes, Config.stepCap] at *
      omega
    · exact h.arena_bound c hc
  steps_defined i hi := by
    by_cases hl : i = m.stepCount.toNat
    · subst hl
      exact ⟨r, j, storeRead_storeWrite_same m _ r, hd, hk⟩
    · have hi' : i < m.stepCount.toNat := by
        have : (m.stepCount + 1#9).toNat ≤ m.stepCount.toNat + 1 := by bv_omega
        have : i < (m.stepCount + 1#9).toNat := hi
        omega
      obtain ⟨r', j', hr', hd', hk'⟩ := h.steps_defined i hi'
      exact ⟨r', j', (storeRead_storeWrite_other m r hl).trans hr', hd', hk'⟩

theorem allocSlot_loopCount {m : Store} (n : Word16) (hl : m.loopCount.toNat < 10) :
    (allocSlot n m).loopCount.toNat = m.loopCount.toNat + 1 := by
  rw [allocSlot, dif_pos hl]
  bv_omega

theorem allocSlot_stepCount (n : Word16) (m : Store) : (allocSlot n m).stepCount = m.stepCount := by
  unfold allocSlot
  split <;> rfl

theorem StoreOk.appendStore {m : Store} (h : StoreOk m) {r : Rec} (n : Word16) (ht : (recTag r).toNat ≤ 0x16) :
    StoreOk (appendStore r n m).2 := by
  obtain ⟨j, hd⟩ := decode_of_defined ((recTag_storedRec m.loopCount r).symm ▸ ht)
  unfold Machine.appendStore
  split
  next => exact h
  next hs =>
    have hm : m.stepCount.toNat < Config.stepCap := by simpa [stepsFull] using hs
    split
    next => exact h
    next hf =>
      have slot_free (hl : isLoopRec r = true) : m.loopCount.toNat < 10 := by
        simpa [hl, slotsFull] using hf
      have slot_named {t k : Byte} (hj : j = .loop t k) : isLoopRec r = true ∧ k.toNat = m.loopCount.toNat :=
        slot_of_storedRec (hj ▸ hd)
      split
      next hl =>
        have hr := (h.allocSlot n).recordStep (r := storedRec m.loopCount r) (j := j)
          (by rwa [allocSlot_stepCount]) hd fun t k hj => by
            rw [allocSlot_loopCount n (slot_free hl), (slot_named hj).2]
            exact Nat.lt_succ_self _
        rwa [allocSlot_stepCount] at hr
      next hl => exact h.recordStep hm hd fun t k hj => absurd (slot_named hj).1 hl

/-! ### Every FSM step keeps the invariant -/

/-- EXEC_MODE, CANCEL and LAST_CANCELLED are free in the sequencer's part of the invariant. -/
theorem SequencerOk.withFlags {q : Seq} (h : SequencerOk q) (m : ExecMode) (c l : Bool) :
    SequencerOk { q with execMode := m, cancel := c, lastCancelled := l } where
  waits := { h.waits with }
  watch := h.watch
  context := { h.context with }
  windows := { h.windows with }

theorem Inv.withSched {s : State} (h : Inv s) {d : Sched} (hd : d.pollOwed = false) : Inv (s.withSched d) :=
  { h with
    arbiter := { h.arbiter with }
    poll_owed := fun ho => absurd (hd.symm.trans ho) (by decide) }

theorem Inv.onlyEnv {s t : State} (h : Inv s) (ht : OnlyEnv s t) : Inv t := by
  obtain ⟨hq, hm, ht, hd, hc⟩ := ht
  refine ⟨hc ▸ h.params, hq ▸ h.sequencer, ⟨?_, ?_, ?_, ?_⟩, hm ▸ h.store, ?_, hq ▸ h.counters, ?_⟩
  · rw [hq, hc, ht]; exact h.arbiter.one_shot
  · rw [hq, hc, ht]; exact h.arbiter.ms_mode
  · rw [hq, ht]; exact h.arbiter.service_off
  · rw [hc, ht]; exact h.arbiter.service_phase
  · rw [LoopsOk, hq, hm]; exact h.loops
  · rw [PollOwedOk, hq, hd]; exact h.poll_owed

theorem Inv.takeOffer {s : State} (h : Inv s) : Inv (takeOffer s) := h.onlyEnv ⟨rfl, rfl, rfl, rfl, rfl⟩

/-- A command that stays in IDLE writes the store, EXEC_MODE, CANCEL and LAST_CANCELLED at most (R110–R114). -/
theorem Inv.stayIdle {s : State} (h : Inv s) (ho : s.sched.pollOwed = false) (hf : s.seq.fsm = .idle)
    {m : Store} (hm : StoreOk m) (e : ExecMode) (c l : Bool) (r : Response) :
    Inv (respond r ((s.withStore m).withSeq { s.seq with execMode := e, cancel := c, lastCancelled := l })) :=
  Grounded.inv { h.grounded ho with store := hm } (fun hr => absurd hr (not_running_of_idle hf))
    (h.sequencer.withFlags e c l) { h.arbiter with }

theorem Inv.acceptProgram {s : State} (h : Inv s) (ho : s.sched.pollOwed = false) (hf : s.seq.fsm = .idle) :
    Inv (acceptProgram s) := by
  have hm : StoreOk { s.store with stepCount := 0#9, loopCount := 0#4 } := { h.store with
    step_count := Nat.zero_le _
    loop_count := Nat.zero_le _
    steps_defined := fun i hi => absurd hi (Nat.not_lt_zero i) }
  exact h.stayIdle ho hf hm .recording s.seq.cancel s.seq.lastCancelled .ok

theorem slotsBounded_clearActive (m : Store) : SlotsBounded (clearActive m) := by
  intro k hk
  simp at hk

theorem StoreOk.clearActive {m : Store} (h : StoreOk m) : StoreOk (clearActive m) := { h with }

theorem Inv.startRun {s : State} (h : Inv s) (ho : s.sched.pollOwed = false) (hf : s.seq.fsm = .idle)
    {n : Word16} (hn : n ≠ 0#16) : Inv ((s.withStore (clearActive s.store)).withSeq
      { s.seq with cancel := false, iter := n, pc := 0#9, ctx := .run, watchQuit := true, fsm := .runHead }) :=
  have hw : s.seq.opw = .none := h.opw_of_not_waiting (by simp [hf])
  Ready.runHead
    { h.grounded ho with
      store := h.store.clearActive
      pc_bound := Nat.zero_le _
      in_run := fun _ => ⟨hn, slotsBounded_clearActive _⟩
      no_output := h.no_output (by simp [hw])
      watching := rfl
      time_base := (h.arbiter.ms_mode (by rw [hw]; rfl)).1
      no_match := (h.arbiter.ms_mode (by rw [hw]; rfl)).2
      service_on := h.service_on (by simp [hw]) } rfl hw rfl

theorem Inv.loadImmediate {s : State} (h : Inv s) (ho : s.sched.pollOwed = false) (hf : s.seq.fsm = .idle)
    (r : Rec) : Ready (loadImmediate r s) :=
  have hw : s.seq.opw = .none := h.opw_of_not_waiting (by simp [hf])
  { h.grounded ho with
    in_run := fun hc => (nomatch hc)
    no_output := h.no_output (by simp [hw])
    watching := rfl
    time_base := (h.arbiter.ms_mode (by rw [hw]; rfl)).1
    no_match := (h.arbiter.ms_mode (by rw [hw]; rfl)).2
    service_on := h.service_on (by simp [hw]) }

/-- The decoder reads the opcode off the tag (R81). -/
theorem recTag_of_decode {r : Rec} {i : Instr} (h : decode r = .instr i) : recTag r = i.tag := by
  unfold decode at h
  split at h <;> cases h
  all_goals exact BitVec.eq_of_toNat_eq (by assumption)

/-- The jumps are the skipped tags (R119). -/
theorem not_jump_of_not_skipped {r : Rec} {i : Instr} (hs : skippedTag (recTag r) = false)
    (hd : decode r = .instr i) : i ≠ .charGoto ∧ (∀ a k, i ≠ .loop a k) ∧ ∀ a, i ≠ .goto a := by
  rw [recTag_of_decode hd] at hs
  refine ⟨?_, fun a k => ?_, fun a => ?_⟩ <;> rintro rfl <;> simp [Instr.tag, skippedTag] at hs

theorem Inv.opw_at_head {s : State} (h : Inv s) (hf : s.seq.fsm = .runHead) : s.seq.opw = .none :=
  h.opw_of_not_waiting (by simp [hf])

theorem Inv.ready_at_head {s : State} (h : Inv s) (ho : s.sched.pollOwed = false) (hf : s.seq.fsm = .runHead) :
    Ready s := by
  have hw := h.opw_at_head hf
  exact h.ready ho (.inl hf) (by rw [hw]; rfl) (by simp [hw]) (by simp [hw]) (by simp [hw])

theorem Ready.loadFetched {s : State} (h : Ready s) {r : Rec} (hr : Fetches s r) : Ready (loadFetched r s) := by
  obtain ⟨_, _, hp, _⟩ := hr
  refine { h with in_run := h.in_run, pc_bound := ?_ }
  have hs : s.store.stepCount.toNat ≤ 256 := h.store.step_count
  show (s.seq.pc + 1#9).toNat ≤ 256
  bv_omega

theorem Ready.nextPass {s : State} (h : Ready s) (hi : s.seq.iter ≠ 1#16) : Ready (nextPass s) :=
  { h with
    store := h.store.clearActive
    pc_bound := Nat.zero_le _
    in_run := fun _ => ⟨fun h0 => hi (sub_eq_zero.1 h0), slotsBounded_clearActive _⟩ }

theorem FsmEnd.inv {s t : State} (h : FsmEnd s t) (hs : Inv s) (ho : s.sched.pollOwed = false) : Inv t := by
  have hu := hs.takeOffer
  have in_run (hf : s.seq.fsm = .runHead) : s.seq.ctx = .run := hs.sequencer.ctx_of_running (.inl hf)
  cases h with
  | still => exact hs
  | program hp => exact hu.acceptProgram ho hp.1
  | finish hp => exact hu.stayIdle ho hp.1 hs.store .immediate s.seq.cancel s.seq.lastCancelled .ok
  | refused r n hp => exact hu.stayIdle ho hp.1 hs.store s.seq.execMode s.seq.cancel s.seq.lastCancelled .badOpcode
  | recorded r n hp ht =>
    exact hu.stayIdle ho hp.1 (hs.store.appendStore n ht) s.seq.execMode s.seq.cancel s.seq.lastCancelled _
  | skipped r n hp =>
    exact (hu.loadImmediate ho hp.1 r).finishImm (hs.opw_of_not_waiting (by simp [hp.1]))
  | immediate r n i t hp _ _ hk hd he =>
    obtain ⟨hg, hl, _⟩ := not_jump_of_not_skipped hk hd
    refine he.inv (hu.loadImmediate ho hp.1 r) fun hi => ?_
    obtain hi | ⟨a, k, hi⟩ := hi
    · exact absurd hi hg
    · exact absurd hi (hl a k)
  | runNone hp => exact hu.stayIdle ho hp.1 hs.store s.seq.execMode false false (.done false)
  | runStart n hp hn => exact hu.startRun ho hp.1 hn
  | cancelRun hf => exact (hs.ready_at_head ho hf).finishRun true s.seq.iter (hs.opw_at_head hf)
  | fetched r i t hr hd he =>
    exact he.inv ((hs.ready_at_head ho hr.1).loadFetched hr) fun _ => in_run hr.1
  | illegal r tag hr hd => exact ((hs.ready_at_head ho hr.1).loadFetched hr).raiseFault _ (in_run hr.1)
  | lastPass hf => exact (hs.ready_at_head ho hf).finishRun false 0#16 (hs.opw_at_head hf)
  | nextPass hf _ _ hi =>
    exact ((hs.ready_at_head ho hf).nextPass hi).runHead hf (hs.opw_at_head hf) (in_run hf)
  | polled t hf he => exact he.inv hs ho hf

/-! ### A tick keeps the invariant (R131–R135) -/

/-- The parameters' bounds that the counters rest on (R15). -/
theorem Params.bounds {c : Params} (h : c.wf = true) : 0 < c.ticksPerMs.toNat ∧ 0 < c.svcPeriod.toNat := by
  simp only [Params.wf, Bool.and_eq_true, decide_eq_true_eq] at h
  obtain ⟨⟨⟨⟨⟨h1, h2⟩, h3⟩, _⟩, _⟩, _⟩ := h
  refine ⟨?_, h3⟩
  rw [Params.ticksPerMs, BitVec.toNat_ofNat]
  omega

theorem meetsCompare_iff {c m : Word16} (h : c.toNat < m.toNat) :
    meetsCompare c m = true ↔ c.toNat + 1 = m.toNat := by
  have := m.isLt
  rw [meetsCompare, decide_eq_true_eq, ← BitVec.toNat_inj]
  bv_omega

/-- Channel A wraps its phase at the compare (R133). -/
theorem MsPhase.tickShared {p : Word16} {t : Timer} (h : MsPhase p t) (hd : t.osDone = false) :
    MsPhase p t.tickShared ∧ t.tickShared.osDone = false := by
  obtain ⟨hm, hc, hp⟩ := h
  have hlt : t.cnt.toNat < t.cmp.toNat := hc ▸ hp
  simp only [Timer.tickShared, hm, Timer.tickMs]
  split
  next => exact ⟨⟨rfl, hc, Nat.lt_of_le_of_lt (Nat.zero_le _) hp⟩, hd⟩
  next hn =>
    refine ⟨⟨rfl, hc, ?_⟩, hd⟩
    rw [meetsCompare_iff hlt] at hn
    have := t.cmp.isLt
    show (t.cnt + 1#16).toNat < p.toNat
    rw [← hc]
    bv_omega

/-- Channel B counts to its compare and stops there (R135). -/
theorem OneShot.tickShared {p : Word16} {t : Timer} (h : OneShot p t) : OneShot p t.tickShared := by
  obtain ⟨hm, hs, ha, hc, hd⟩ := h
  simp only [Timer.tickShared, hm, Timer.tickOs]
  split
  next => exact ⟨hm, hs, ha, hc, hd⟩
  next ho =>
    have hne : t.cnt ≠ t.cmp := fun he => ho (hd.2 he)
    have hlt : t.cnt.toNat < t.cmp.toNat := Nat.lt_of_le_of_ne hc fun he => hne (BitVec.eq_of_toNat_eq he)
    split
    next => exact ⟨rfl, hs, ha, Nat.le_refl _, by simp⟩
    next hn =>
      have hn' : t.cnt + 1#16 ≠ t.cmp := fun he => hn (decide_eq_true he)
      have hle : (t.cnt + 1#16).toNat ≤ t.cmp.toNat := by
        have := t.cmp.isLt
        bv_omega
      exact ⟨rfl, hs, ha, hle, by simp [ho, hn']⟩

/-- Channel C's divider moves alone, below its period (R132). -/
theorem Timer.tickService_eq {q : Word16} {t : Timer} (h : t.svcCnt.toNat < q.toNat) :
    ∃ n : Word16, n.toNat < q.toNat ∧ t.tickService q = { t with svcCnt := n } := by
  unfold Timer.tickService
  split
  next =>
    split
    next => exact ⟨0#16, Nat.lt_of_le_of_lt (Nat.zero_le _) h, rfl⟩
    next hn =>
      rw [meetsCompare_iff h] at hn
      have := q.isLt
      exact ⟨t.svcCnt + 1#16, by bv_omega, rfl⟩
  next => exact ⟨t.svcCnt, h, rfl⟩

/-- The shared counter's channels leave channel C alone (R41). -/
theorem Timer.tickShared_service (t : Timer) :
    t.tickShared.svcCnt = t.svcCnt ∧ t.tickShared.svcEn = t.svcEn := by
  unfold Timer.tickShared Timer.tickMs Timer.tickOs
  split
  next => split <;> exact ⟨rfl, rfl⟩
  next =>
    split
    next => exact ⟨rfl, rfl⟩
    next => split <;> exact ⟨rfl, rfl⟩

theorem ArbiterOk.tick {s : State} (h : ArbiterOk s) : ArbiterOk (tick s) := by
  obtain ⟨n, hn, ht⟩ := Timer.tickService_eq h.service_phase
  obtain ⟨hc, he⟩ := Timer.tickShared_service { s.timer with svcCnt := n }
  have ht' : (Machine.tick s).timer = ({ s.timer with svcCnt := n } : Timer).tickShared := by
    rw [tick_timer, ht]
  have hw : (Machine.tick s).seq.opw = s.seq.opw := by simp [tick_seq]
  refine ⟨?_, ?_, ?_, ?_⟩ <;> simp only [ht', hw, tick_cfg, hc, he]
  · exact fun ho => OneShot.tickShared { h.one_shot ho with }
  · exact fun ho => MsPhase.tickShared { (h.ms_mode ho).1 with } (h.ms_mode ho).2
  · exact h.service_off
  · exact hn

theorem SequencerOk.withCancel {q : Seq} (h : SequencerOk q) (c : Bool) : SequencerOk { q with cancel := c } :=
  h.withFlags q.execMode c q.lastCancelled

theorem Inv.tick {s : State} (h : Inv s) : Inv (oweWhileWaiting (tick s)) := by
  have hq := tick_seq s
  have hc := h.counters
  refine ⟨?_, ?_, { h.arbiter.tick with }, ?_, ?_, ?_, fun ho => of_decide_eq_true ho⟩
  · simpa [oweWhileWaiting] using h.params
  · rw [oweWhileWaiting, State.withSched_seq, hq]
    exact h.sequencer.withCancel _
  · simpa [oweWhileWaiting] using h.store
  · rw [LoopsOk, oweWhileWaiting, State.withSched_seq, State.withSched_store, hq, tick_store]
    exact h.loops
  · rw [oweWhileWaiting, State.withSched_seq, hq]
    exact { hc with }

/-! ### Reset gives the invariant (R55, R240) -/

/-- A block whose registers, storage and timer are as after reset, with admitted parameters and no poll owed. -/
theorem inv_of_reset {s : State} (hp : s.cfg.wf = true) (hq : s.seq = Seq.reset) (hm : s.store = Store.reset)
    (ht : s.timer = Timer.reset s.cfg.ticksPerMs) (hd : s.sched.pollOwed = false) : Inv s := by
  obtain ⟨hms, hsvc⟩ := Params.bounds hp
  have hstore : StoreOk Store.reset :=
    ⟨Nat.zero_le _, Nat.zero_le _, Memory.wf_nil, Memory.wf_nil, fun c hc => (nomatch hc), fun c hc => (nomatch hc),
      fun i hi => absurd hi (Nat.not_lt_zero i)⟩
  have hphase : MsPhase s.cfg.ticksPerMs (Timer.reset s.cfg.ticksPerMs) := ⟨rfl, rfl, hms⟩
  have hground : Grounded s := ⟨hp, hm ▸ hstore, by rw [hq]; exact Nat.zero_le _, hd, by rw [ht]; exact hsvc⟩
  refine hground.inv (fun hr => absurd hr (not_running_of_idle (hq ▸ rfl))) ?_ (arbiterOk_of_ms ?_ ?_ ?_ ?_ ?_)
  · rw [hq]
    exact sequencerOk_of_not_waiting (by decide) rfl rfl (by decide) rfl
  · rw [hq]; rfl
  · rwa [ht]
  · rw [ht]; rfl
  · rw [ht]; rfl
  · rw [ht]; exact hsvc

theorem Inv.blockReset {s : State} (h : Inv s) : Inv (blockReset s) :=
  inv_of_reset h.params rfl rfl rfl rfl

/-- ADC_BITS is free but within its bounds (log 5), and the other start values are admitted by R15. -/
theorem params_atReset_wf : Params.atReset.wf = true := by
  simp only [Params.wf, Bool.and_eq_true, decide_eq_true_eq]
  exact ⟨⟨⟨⟨⟨by decide, by decide⟩, by decide⟩, Nat.le_add_left _ _⟩, Config.adcBitsLessOne.isLt⟩,
    List.length_replicate.le⟩

/-- Settles O2: the start state is written out with the table's values (R55). -/
theorem resetValuesAreTheSpecs : Obligations.ResetValuesAreTheSpecs := by
  have hslots (k : Fin 10) : (State.reset.store.slots[k.val]).act = false := by
    simp [State.reset, Store.reset]
  exact ⟨rfl, rfl, rfl, rfl, rfl, rfl, rfl, rfl, rfl, rfl, rfl, rfl, rfl, rfl, rfl, rfl, hslots, rfl, rfl, rfl, rfl,
    rfl, rfl, rfl, rfl, rfl, rfl, rfl, rfl, rfl⟩

/-- Settles O56: the start state is a reset block with admitted parameters. -/
theorem invariantHoldsAtReset : Obligations.InvariantHoldsAtReset :=
  inv_of_reset params_atReset_wf rfl rfl rfl rfl

/-- Settles O57: an FSM step keeps the invariant by the ways it can end, a tick by its channels, the reset input
gives it, and the environment does not touch it. -/
theorem stepKeepsTheInvariant : Obligations.StepKeepsTheInvariant := by
  intro s t hs hstep
  have hc : Inv (consume s) := { hs with
    arbiter := { hs.arbiter with }
    poll_owed := fun ho => hs.poll_owed (by simpa using ho) }
  obtain ⟨d, hd, hf⟩ | ⟨_, rfl⟩ | ⟨_, rfl⟩ | he := step_end hstep
  · exact hf.inv (hs.withSched hd) hd
  · exact hc.tick
  · exact hc.blockReset
  · exact hc.onlyEnv he

end Sys2Proof.Machine
end

section
/-! PROOFS. The frames: what a dispatch part, a poll, an FSM step and a tick leave alone, and the only writers of the
rest (10_state.md R24, R31, R37, R39, R46, R51; 20_memory.md R63, R74). -/

namespace Sys2Proof.Machine

/-! ### The fields after the compound operations -/

@[simp] theorem countSlot_seq (k : Fin 10) (s : State) : (countSlot k s).seq = s.seq := rfl
@[simp] theorem countSlot_timer (k : Fin 10) (s : State) : (countSlot k s).timer = s.timer := rfl
@[simp] theorem countSlot_env (k : Fin 10) (s : State) : (countSlot k s).env = s.env := rfl
@[simp] theorem countSlot_sched (k : Fin 10) (s : State) : (countSlot k s).sched = s.sched := rfl
@[simp] theorem countSlot_cfg (k : Fin 10) (s : State) : (countSlot k s).cfg = s.cfg := rfl

@[simp] theorem armSteady_seq (l : Bool) (s : State) : (armSteady l s).seq = { s.seq with lvl := l } := rfl
@[simp] theorem armSteady_store (l : Bool) (s : State) : (armSteady l s).store = s.store := rfl
@[simp] theorem armSteady_timer (l : Bool) (s : State) : (armSteady l s).timer = s.timer.arm s.seq.wt := rfl
@[simp] theorem armSteady_env (l : Bool) (s : State) : (armSteady l s).env = s.env := rfl
@[simp] theorem armSteady_sched (l : Bool) (s : State) : (armSteady l s).sched = s.sched := rfl
@[simp] theorem armSteady_cfg (l : Bool) (s : State) : (armSteady l s).cfg = s.cfg := rfl

@[simp] theorem emitLevel_seq (l : Bool) (s : State) : (emitLevel l s).seq =
    { s.seq with outq := levelByte l :: s.cfg.eol.bytes, opw := .tx, fsm := .opWait } := rfl
@[simp] theorem emitLevel_store (l : Bool) (s : State) : (emitLevel l s).store = s.store := rfl

@[simp] theorem takeOffer_seq (s : State) : (takeOffer s).seq = s.seq := rfl
@[simp] theorem takeOffer_store (s : State) : (takeOffer s).store = s.store := rfl
@[simp] theorem takeOffer_timer (s : State) : (takeOffer s).timer = s.timer := rfl

@[simp] theorem acceptProgram_seq (s : State) :
    (acceptProgram s).seq = { s.seq with execMode := .recording } := rfl
@[simp] theorem acceptProgram_store (s : State) :
    (acceptProgram s).store = { s.store with stepCount := 0#9, loopCount := 0#4 } := rfl

@[simp] theorem acceptEnd_seq (s : State) : (acceptEnd s).seq = { s.seq with execMode := .immediate } := rfl
@[simp] theorem acceptEnd_store (s : State) : (acceptEnd s).store = s.store := rfl

@[simp] theorem append_seq (r : Rec) (n : Word16) (s : State) : (append r n s).seq = s.seq := rfl

@[simp] theorem loadImmediate_seq (r : Rec) (s : State) : (loadImmediate r s).seq =
    { s.seq with cancel := false, ir := r, ctx := .imm, watchQuit := true } := rfl
@[simp] theorem loadImmediate_store (r : Rec) (s : State) : (loadImmediate r s).store = s.store := rfl
@[simp] theorem loadImmediate_timer (r : Rec) (s : State) : (loadImmediate r s).timer = s.timer := rfl

@[simp] theorem loadFetched_seq (r : Rec) (s : State) : (loadFetched r s).seq =
    { s.seq with cur := s.seq.pc, ir := r, pc := s.seq.pc + 1#9 } := rfl
@[simp] theorem loadFetched_store (r : Rec) (s : State) : (loadFetched r s).store = s.store := rfl
@[simp] theorem loadFetched_timer (r : Rec) (s : State) : (loadFetched r s).timer = s.timer := rfl

@[simp] theorem nextPass_seq (s : State) :
    (nextPass s).seq = { s.seq with iter := s.seq.iter - 1#16, pc := 0#9 } := rfl
@[simp] theorem nextPass_store (s : State) : (nextPass s).store = clearActive s.store := rfl

/-! ### The recorded program (R51, R63) -/

/-- The stored steps, the counters and the initial loop counts are the same. -/
structure SameProgram (m m' : Store) : Prop where
  opc : m'.opc = m.opc
  arena : m'.arena = m.arena
  stepCount : m'.stepCount = m.stepCount
  loopCount : m'.loopCount = m.loopCount
  init : ∀ k : Fin 10, (m'.slots[k.val]).init = (m.slots[k.val]).init

theorem SameProgram.of_eq {m m' : Store} (h : m' = m) : SameProgram m m' := by
  subst h
  exact ⟨rfl, rfl, rfl, rfl, fun _ => rfl⟩

theorem sameProgram_clearActive (m : Store) : SameProgram m (clearActive m) :=
  ⟨rfl, rfl, rfl, rfl, fun k => by rw [clearActive_slot m k.val k.isLt]⟩

theorem sameProgram_countSlot (k : Fin 10) (s : State) : SameProgram s.store (countSlot k s).store := by
  refine ⟨rfl, rfl, rfl, rfl, fun j => ?_⟩
  by_cases hj : k.val = j.val
  · simp [countSlot, hj]
  · simp [countSlot, Vector.getElem_set_ne _ _ hj]

/-! ### What a dispatch part leaves alone -/

section Dispatch

variable {i : Instr} {s t : State}

theorem ExecEnd.store (h : ExecEnd i s t) :
    t.store = s.store ∨ (∃ a k, i = .loop a k) ∧ ∃ k, t.store = (countSlot k s).store := by
  cases h with
  | loopBack a k hi hk => exact .inr ⟨⟨a, k, hi⟩, ⟨k.toNat, hk⟩, by simp⟩
  | loopEnd a k hi hk => exact .inr ⟨⟨a, k, hi⟩, ⟨k.toNat, hk⟩, by simp⟩
  | _ => exact .inl (by simp)

theorem ExecEnd.sameProgram (h : ExecEnd i s t) : SameProgram s.store t.store := by
  obtain h | ⟨_, k, h⟩ := h.store
  · exact .of_eq h
  · exact h ▸ sameProgram_countSlot k s

theorem ExecEnd.slots_writer (h : ExecEnd i s t) (hn : t.store.slots ≠ s.store.slots) : ∃ a k, i = .loop a k := by
  obtain h | ⟨hi, _⟩ := h.store
  · exact absurd (congrArg Store.slots h) hn
  · exact hi

/-- The sequencer's registers that no opcode writes. -/
theorem ExecEnd.seq_kept (h : ExecEnd i s t) : t.seq.cur = s.seq.cur ∧ t.seq.ir = s.seq.ir ∧
    t.seq.iter = s.seq.iter ∧ t.seq.execMode = s.seq.execMode ∧ t.seq.lastCancelled = s.seq.lastCancelled := by
  cases h <;> simp

theorem ExecEnd.cancel_kept (h : ExecEnd i s t) : t.seq.cancel = s.seq.cancel := by
  cases h <;> simp

/-- The timer's registers that no opcode writes. -/
theorem ExecEnd.timer_kept (h : ExecEnd i s t) :
    t.timer.msCount = s.timer.msCount ∧ t.timer.svcCnt = s.timer.svcCnt := by
  cases h <;> simp

/-- The environment's state that no opcode writes. -/
theorem ExecEnd.env_kept (h : ExecEnd i s t) : t.env.rxq = s.env.rxq ∧ t.env.levels = s.env.levels ∧
    t.env.txReady = s.env.txReady ∧ t.env.port = s.env.port := by
  cases h <;> simp

theorem ExecEnd.sched_kept (h : ExecEnd i s t) : t.sched = s.sched ∧ t.cfg = s.cfg := by
  cases h <;> simp

/-! ### The only writer of each other register -/

theorem ExecEnd.wt_writer (h : ExecEnd i s t) (hn : t.seq.wt ≠ s.seq.wt) : i = .setWaitTime t.seq.wt := by
  cases h with
  | window v hi => simpa using hi
  | _ => simp at hn

theorem ExecEnd.snapshot_writer (h : ExecEnd i s t) (hn : t.seq.tbMs ≠ s.seq.tbMs ∨ t.seq.tbPh ≠ s.seq.tbPh) :
    i = .timerBegin ∧ t.seq.tbMs = s.timer.msCount ∧ t.seq.tbPh = s.timer.cnt := by
  cases h with
  | snapshot hi => exact ⟨hi, by simp, by simp⟩
  | _ => simp at hn

theorem ExecEnd.pc_writer (h : ExecEnd i s t) (hn : t.seq.pc ≠ s.seq.pc) :
    ∃ a : Byte, t.seq.pc = a.setWidth 9 ∧ (i = .goto a ∨ ∃ k, i = .loop a k) := by
  cases h with
  | loopBack a k hi => exact ⟨a, by simp [pcOf], .inr ⟨k, hi⟩⟩
  | goto a hi => exact ⟨a, by simp [pcOf], .inl hi⟩
  | _ => simp at hn

theorem ExecEnd.faultKind_writer (h : ExecEnd i s t) (hn : t.seq.faultKind ≠ s.seq.faultKind) :
    ∃ a k, i = .loop a k := by
  cases h with
  | badSlot a k hi => exact ⟨a, k, hi⟩
  | _ => simp at hn

theorem ExecEnd.lvl_writer (h : ExecEnd i s t) (hn : t.seq.lvl ≠ s.seq.lvl) :
    waitsOf i = [.level] ∨ ∃ p, i = .readDigital p := by
  cases h with
  | levelWait l d hi => exact .inl hi
  | steadyRead p l hi => exact .inr ⟨p, hi⟩
  | _ => simp at hn

theorem ExecEnd.deb_writer (h : ExecEnd i s t) (hn : t.seq.deb ≠ s.seq.deb) : waitsOf i = [.level] := by
  cases h with
  | levelWait l d hi => exact hi
  | _ => simp at hn

theorem ExecEnd.outq_writer (h : ExecEnd i s t) (hn : t.seq.outq ≠ s.seq.outq) : Sends i := by
  cases h with
  | output bs hi => exact hi
  | _ => simp at hn

theorem ExecEnd.target_writer (h : ExecEnd i s t)
    (hn : t.timer.tick ≠ s.timer.tick ∨ t.timer.msTarget ≠ s.timer.msTarget) : ∃ v, i = .delayMs v := by
  cases h with
  | msDelay v hi => exact ⟨v, hi⟩
  | _ => simp at hn

theorem ExecEnd.svcEn_writer (h : ExecEnd i s t) (hn : t.timer.svcEn ≠ s.timer.svcEn) : ∃ v, i = .delayUs v := by
  cases h with
  | usDelay v hi => exact ⟨v, hi⟩
  | _ => simp at hn

theorem ExecEnd.counter_writer (h : ExecEnd i s t)
    (hn : t.timer.tmode ≠ s.timer.tmode ∨ t.timer.cnt ≠ s.timer.cnt ∨ t.timer.cmp ≠ s.timer.cmp ∨
      t.timer.osDone ≠ s.timer.osDone ∨ t.timer.phSave ≠ s.timer.phSave) :
    (∃ v, i = .delayUs v) ∨ ∃ p, i = .readDigital p := by
  cases h with
  | usDelay v hi => exact .inl ⟨v, hi⟩
  | steadyRead p l hi => exact .inr ⟨p, hi⟩
  | _ => simp at hn

theorem ExecEnd.adc_writer (h : ExecEnd i s t) (hn : t.env.adc ≠ s.env.adc) : ∃ p, i = .readAnalog p := by
  cases h with
  | conversion p hi => exact ⟨p, hi⟩
  | _ => simp at hn

theorem ExecEnd.trace_writer (h : ExecEnd i s t) (hn : t.env.trace ≠ s.env.trace) :
    (s.seq.ctx = .imm ∧ t.seq.fsm = .idle) ∨ Drives i ∨ ∃ p, i = .readAnalog p := by
  cases h with
  | event e hi => exact .inr (.inl hi)
  | conversion p hi => exact .inr (.inr ⟨p, hi⟩)
  | _ => cases hc : s.seq.ctx <;> simp [hc] at hn ⊢

/-! ### How FSM, OPW, CTX and WATCH_QUIT end -/

/-- A wait the instruction has, a completed step of a run, a completed immediate step, or a Loop's fault. -/
def StepOutcome (i : Instr) (s t : State) : Prop :=
  (t.seq.fsm = .opWait ∧ t.seq.opw ∈ waitsOf i ∧ t.seq.ctx = s.seq.ctx ∧
    t.seq.watchQuit = (s.seq.watchQuit && decide (i ≠ .charReceive) && decide (i ≠ .charGoto))) ∨
  (s.seq.ctx = .run ∧ t.seq.fsm = .runHead ∧ t.seq.opw = .none ∧ t.seq.ctx = .run ∧
    t.seq.watchQuit = s.seq.watchQuit) ∨
  (s.seq.ctx = .imm ∧ t.seq.fsm = .idle ∧ t.seq.opw = .none ∧ t.seq.ctx = .run ∧ t.seq.watchQuit = false) ∨
  ((∃ a k, i = .loop a k) ∧ t.seq.fsm = .fault ∧ t.seq.opw = .none ∧ t.seq.ctx = s.seq.ctx ∧
    t.seq.watchQuit = false)

theorem stepOutcome_complete {u : State} (hc : u.seq.ctx = s.seq.ctx) (hq : u.seq.watchQuit = s.seq.watchQuit) :
    StepOutcome i s (complete u) := by
  cases hs : s.seq.ctx with
  | run => exact .inr (.inl (by simp [hc, hs, hq]))
  | imm => exact .inr (.inr (.inl (by simp [hc, hs])))

/-- CR and CG are the waits of the byte opcodes and of no other. -/
theorem mem_waitsOf_byte : ∀ w ∈ waitsOf i, (w = .cr ↔ i = .charReceive) ∧ (w = .cg ↔ i = .charGoto) := by
  cases i <;> simp [waitsOf]

theorem stepOutcome_wait {u : State} {w : Opw} (hw : w ∈ waitsOf i) (hc : u.seq.ctx = s.seq.ctx)
    (hq : u.seq.watchQuit = (s.seq.watchQuit && decide (w ≠ .cr) && decide (w ≠ .cg))) :
    StepOutcome i s (enterWait w u) := by
  obtain ⟨hr, hg⟩ := mem_waitsOf_byte w hw
  refine .inl ⟨rfl, hw, hc, ?_⟩
  simpa [hr, hg] using hq

theorem tx_mem_waitsOf (h : Sends i) : Opw.tx ∈ waitsOf i := by
  obtain rfl | ⟨b, rfl⟩ | ⟨p, rfl⟩ := h <;> simp [waitsOf]

theorem ExecEnd.outcome (h : ExecEnd i s t) : StepOutcome i s t := by
  cases h with
  | levelWait l d hi => exact stepOutcome_wait (by simp [hi]) rfl (by simp)
  | msDelay v hi => exact stepOutcome_wait (by simp [hi, waitsOf]) rfl (by simp)
  | usDelay v hi => exact stepOutcome_wait (by simp [hi, waitsOf]) rfl (by simp)
  | output bs hi => exact stepOutcome_wait (tx_mem_waitsOf hi) rfl (by simp)
  | steadyRead p l hi => exact stepOutcome_wait (by simp [hi, waitsOf]) rfl (by simp)
  | conversion p hi => exact stepOutcome_wait (by simp [hi, waitsOf]) rfl (by simp)
  | byteWait w hi =>
    obtain ⟨rfl, rfl⟩ | ⟨rfl, rfl⟩ := hi <;> exact stepOutcome_wait (by simp [waitsOf]) rfl (by simp)
  | badSlot a k hi => exact .inr (.inr (.inr ⟨⟨a, k, hi⟩, rfl, rfl, rfl, rfl⟩))
  | _ => exact stepOutcome_complete (by simp) (by simp)

end Dispatch

/-- Settles O21: each part is the frame or the writer lemma of the ways a dispatch part can end. -/
theorem opcodesWriteOnlyWhatTheyName : Obligations.OpcodesWriteOnlyWhatTheyName := by
  intro i s t hx
  have h := exec_end hx
  obtain ⟨hopc, harena, hsteps, hloops, hinit⟩ := h.sameProgram
  obtain ⟨hcur, hir, hiter, hmode, hlast⟩ := h.seq_kept
  obtain ⟨hms, hsvc⟩ := h.timer_kept
  obtain ⟨hrxq, hlevels, hready, hport⟩ := h.env_kept
  obtain ⟨hsched, hcfg⟩ := h.sched_kept
  refine ⟨fun a => ⟨by rw [hopc], by rw [harena]⟩, hsteps, hloops, hinit, hcur, hir, hiter, hmode, h.cancel_kept,
    hlast, hms, hsvc, hrxq, hlevels, hready, hport, hsched, hcfg, fun hn => ⟨_, h.wt_writer hn⟩,
    fun hn => (h.snapshot_writer hn).1, fun hn => ?_, h.slots_writer, h.faultKind_writer, h.lvl_writer, h.deb_writer,
    h.outq_writer, h.target_writer, h.svcEn_writer, h.counter_writer, h.adc_writer, fun hn => ?_, h.outcome⟩
  · obtain ⟨a, _, ha⟩ := h.pc_writer hn
    exact ha.imp (fun hg => ⟨a, hg⟩) fun ⟨k, hl⟩ => ⟨a, k, hl⟩
  · refine (h.trace_writer hn).imp_right fun hi => ?_
    simpa only [Drives, or_assoc] using hi

/-! ### What a poll leaves alone -/

section Poll

variable {s t : State}

theorem PollEnd.store_kept (h : PollEnd s t) : t.store = s.store := by
  cases h <;> simp

theorem PollEnd.window_kept (h : PollEnd s t) :
    t.seq.wt = s.seq.wt ∧ t.seq.tbMs = s.seq.tbMs ∧ t.seq.tbPh = s.seq.tbPh := by
  cases h <;> simp

theorem PollEnd.pc_writer (h : PollEnd s t) (hn : t.seq.pc ≠ s.seq.pc) :
    s.seq.opw = .cg ∧ ∃ b bs, s.env.rxq = b :: bs ∧ t.seq.pc = b.setWidth 9 := by
  cases h with
  | jumped b bs hw hq => exact ⟨hw, b, bs, hq, by simp [pcOf]⟩
  | _ => simp at hn

/-- Popping a byte writes CANCEL only when it is the quit byte and CANCEL was 0 (R139). -/
theorem cancelAfter_writer {q b : Byte} {c : Bool} (h : cancelAfter q c b ≠ c) : c = false ∧ b = q := by
  cases c with
  | true => exact absurd rfl h
  | false => exact ⟨rfl, of_decide_eq_true (Bool.of_not_eq_false h)⟩

theorem PollEnd.cancel_writer (h : PollEnd s t) (hn : t.seq.cancel ≠ s.seq.cancel) :
    s.seq.cancel = false ∧ (s.seq.opw = .cr ∨ s.seq.opw = .cg) ∧ ∃ bs, s.env.rxq = s.cfg.quitByte :: bs := by
  cases h with
  | byte b bs hw _ hq =>
    obtain ⟨hc, hb⟩ := cancelAfter_writer (by simpa using hn)
    exact ⟨hc, hw, bs, hb ▸ hq⟩
  | _ => simp at hn

end Poll

/-! ### What an FSM step leaves alone -/

section Fsm

variable {s t : State}

theorem FsmEnd.pc_writer (h : FsmEnd s t) (hn : t.seq.pc ≠ s.seq.pc) :
    (s.seq.fsm = .idle ∧ t.seq.pc = 0#9 ∧ ∃ n, n ≠ 0#16 ∧ s.env.port = some (.run n)) ∨
    (s.seq.fsm = .runHead ∧ s.seq.cancel = false ∧
      ((s.store.stepCount.toNat ≤ s.seq.pc.toNat ∧ t.seq.pc = 0#9) ∨
       ∃ r, storeRead s.store s.seq.pc.toNat = some r ∧
        (t.seq.pc = s.seq.pc + 1#9 ∨
         ∃ a : Byte, t.seq.pc = a.setWidth 9 ∧
          (decode r = .instr (.goto a) ∨ ∃ k, decode r = .instr (.loop a k))))) ∨
    (s.seq.fsm = .opWait ∧ s.seq.opw = .cg ∧ ∃ b bs, s.env.rxq = b :: bs ∧ t.seq.pc = b.setWidth 9) := by
  cases h with
  | immediate r n i t ho _ _ hs hd he =>
    obtain ⟨a, _, hi | ⟨k, hi⟩⟩ := he.pc_writer hn
    · exact absurd hi ((not_jump_of_not_skipped hs hd).2.2 a)
    · exact absurd hi ((not_jump_of_not_skipped hs hd).2.1 a k)
  | runStart n ho hn0 => exact .inl ⟨ho.1, rfl, n, hn0, ho.2⟩
  | fetched r i t hr hd he =>
    obtain ⟨hf, hc, _, hr⟩ := hr
    refine .inr (.inl ⟨hf, hc, .inr ⟨r, hr, ?_⟩⟩)
    by_cases hp : t.seq.pc = s.seq.pc + 1#9
    · exact .inl hp
    · obtain ⟨a, ha, hi⟩ := he.pc_writer hp
      rw [hd]
      exact .inr ⟨a, ha, hi.imp (congrArg _) fun ⟨k, hk⟩ => ⟨k, congrArg _ hk⟩⟩
  | illegal r tag hr =>
    obtain ⟨hf, hc, _, hr⟩ := hr
    exact .inr (.inl ⟨hf, hc, .inr ⟨r, hr, .inl rfl⟩⟩)
  | nextPass hf hc hp => exact .inr (.inl ⟨hf, hc, .inl ⟨hp, rfl⟩⟩)
  | polled t hf he => exact .inr (.inr ⟨hf, he.pc_writer hn⟩)
  | _ => simp at hn

theorem FsmEnd.cancel_writer (h : FsmEnd s t) (hn : t.seq.cancel ≠ s.seq.cancel) :
    (s.seq.cancel = false ∧ s.seq.fsm = .opWait ∧ (s.seq.opw = .cr ∨ s.seq.opw = .cg) ∧
      ∃ bs, s.env.rxq = s.cfg.quitByte :: bs) ∨
    (t.seq.cancel = false ∧ s.seq.fsm = .idle ∧ ((∃ n, s.env.port = some (.run n)) ∨
      ∃ r n, s.env.port = some (.submit r n) ∧ s.seq.execMode = .immediate ∧ (recTag r).toNat ≤ 0x16)) := by
  cases h with
  | skipped r n ho ht hm => exact .inr ⟨rfl, ho.1, .inr ⟨r, n, ho.2, hm, ht⟩⟩
  | immediate r n i t ho ht hm _ _ he => exact .inr ⟨he.cancel_kept, ho.1, .inr ⟨r, n, ho.2, hm, ht⟩⟩
  | runNone ho => exact .inr ⟨rfl, ho.1, .inl ⟨0#16, ho.2⟩⟩
  | runStart n ho => exact .inr ⟨rfl, ho.1, .inl ⟨n, ho.2⟩⟩
  | fetched r i t _ _ he => exact absurd he.cancel_kept hn
  | polled t hf he =>
    obtain ⟨hc, hw, hq⟩ := he.cancel_writer hn
    exact .inl ⟨hc, hf, hw, hq⟩
  | _ => simp at hn

/-- An instruction is dispatched from the store in a run, or from the port in Immediate mode (R115, R118). -/
def Dispatched (s : State) (i : Instr) : Prop :=
  (s.seq.fsm = .runHead ∧ ∃ r, storeRead s.store s.seq.pc.toNat = some r ∧ decode r = .instr i) ∨
  (s.seq.fsm = .idle ∧ s.seq.execMode = .immediate ∧ ∃ r n, s.env.port = some (.submit r n) ∧ decode r = .instr i)

theorem FsmEnd.wt_writer (h : FsmEnd s t) (hn : t.seq.wt ≠ s.seq.wt) : Dispatched s (.setWaitTime t.seq.wt) := by
  cases h with
  | immediate r n i t ho _ hm _ hd he =>
    exact .inr ⟨ho.1, hm, r, n, ho.2, hd.trans (congrArg _ (he.wt_writer hn))⟩
  | fetched r i t hr hd he =>
    obtain ⟨hf, _, _, hr⟩ := hr
    exact .inl ⟨hf, r, hr, hd.trans (congrArg _ (he.wt_writer hn))⟩
  | polled t _ he => exact absurd he.window_kept.1 hn
  | _ => simp at hn

theorem FsmEnd.snapshot_writer (h : FsmEnd s t) (hn : t.seq.tbMs ≠ s.seq.tbMs ∨ t.seq.tbPh ≠ s.seq.tbPh) :
    t.seq.tbMs = s.timer.msCount ∧ t.seq.tbPh = s.timer.cnt ∧ Dispatched s .timerBegin := by
  cases h with
  | immediate r n i t ho _ hm _ hd he =>
    obtain ⟨hi, hms, hph⟩ := he.snapshot_writer hn
    exact ⟨hms, hph, .inr ⟨ho.1, hm, r, n, ho.2, hd.trans (congrArg _ hi)⟩⟩
  | fetched r i t hr hd he =>
    obtain ⟨hf, _, _, hr⟩ := hr
    obtain ⟨hi, hms, hph⟩ := he.snapshot_writer hn
    exact ⟨hms, hph, .inl ⟨hf, r, hr, hd.trans (congrArg _ hi)⟩⟩
  | polled t _ he =>
    obtain ⟨_, hms, hph⟩ := he.window_kept
    exact absurd hn (by simp [hms, hph])
  | _ => simp at hn

/-- The program is as it was unless a SUBMIT is recorded or PROGRAM clears the counters (R112, R113). -/
theorem FsmEnd.program_writer (h : FsmEnd s t) :
    SameProgram s.store t.store ∨
    (s.seq.fsm = .idle ∧ s.seq.execMode = .recording ∧ ∃ r n, s.env.port = some (.submit r n)) ∨
    (s.seq.fsm = .idle ∧ s.env.port = some .program ∧
      t.store = { s.store with stepCount := 0#9, loopCount := 0#4 }) := by
  cases h with
  | program ho => exact .inr (.inr ⟨ho.1, ho.2, rfl⟩)
  | recorded r n ho _ hm => exact .inr (.inl ⟨ho.1, hm, r, n, ho.2⟩)
  | immediate r n i t ho _ _ _ _ he => exact .inl he.sameProgram
  | runStart n ho => exact .inl (sameProgram_clearActive _)
  | fetched r i t _ _ he => exact .inl he.sameProgram
  | nextPass => exact .inl (sameProgram_clearActive _)
  | polled t _ he => exact .inl (.of_eq he.store_kept)
  | _ => exact .inl (.of_eq rfl)

end Fsm

/-! ### The obligations about one step -/

/-- A tick writes CANCEL alone in the sequencer, and only in a service event that drains the quit byte (R139). -/
theorem tick_cancel_writer {s : State} (h : (oweWhileWaiting (tick s)).seq.cancel ≠ s.seq.cancel) :
    s.seq.cancel = false ∧ s.timer.svcEn = true ∧ s.timer.svcCnt + 1#16 = s.cfg.svcPeriod ∧
      s.seq.watchQuit = true ∧ s.cfg.quitByte ∈ s.env.rxq := by
  cases hc : s.seq.cancel with
  | true => simp [oweWhileWaiting, tick_seq, hc] at h
  | false => simpa [oweWhileWaiting, tick_seq, hc, Timer.serviceDue, meetsCompare, and_assoc] using h

/-- Settles O50: of the steps, only the FSM's and reset write PC. -/
theorem pcIsWrittenOnlyByItsRules : Obligations.PcIsWrittenOnlyByItsRules := by
  intro s t hstep hn
  obtain ⟨d, _, hf⟩ | ⟨_, rfl⟩ | ⟨hm, _⟩ | he := step_end hstep
  · exact .inr (hf.pc_writer hn)
  · exact absurd (by simp [oweWhileWaiting, tick_seq]) hn
  · exact .inl hm
  · exact absurd (congrArg Seq.pc he.seq) hn

/-- Settles O51: a tick and a poll only set CANCEL, an accepted command only clears it. -/
theorem cancelIsWrittenOnlyByItsRules : Obligations.CancelIsWrittenOnlyByItsRules := by
  intro s t hstep
  obtain ⟨d, _, hf⟩ | ⟨hm, rfl⟩ | ⟨hm, rfl⟩ | he := step_end hstep
  · refine ⟨fun h0 h1 => .inr ?_, fun h1 h0 => .inr ?_⟩
    all_goals
      have hw := hf.cancel_writer (by simp [h0, h1])
      simpa [h0, h1] using hw
  · refine ⟨fun h0 h1 => .inl ⟨hm, ?_⟩, fun h1 h0 => ?_⟩
    all_goals have hw := tick_cancel_writer (s := consume s) (by simp [h0, h1])
    · exact hw.2
    · simp [h1] at hw
  · exact ⟨fun _ h1 => (nomatch h1), fun _ _ => .inl hm⟩
  · have hc : t.seq.cancel = s.seq.cancel := congrArg Seq.cancel he.seq
    exact ⟨fun h0 h1 => by simp [hc, h0] at h1, fun h1 h0 => by simp [hc, h1] at h0⟩

/-- Settles O52: of the steps, only the FSM's dispatches and reset write WT and the snapshot. -/
theorem windowAndSnapshotHaveOneWriter : Obligations.WindowAndSnapshotHaveOneWriter := by
  intro s t hstep
  obtain ⟨d, _, hf⟩ | ⟨_, rfl⟩ | ⟨hm, _⟩ | he := step_end hstep
  · refine ⟨fun hn => .inr (hf.wt_writer hn), fun hn => .inr ?_⟩
    obtain ⟨hms, hph, hd⟩ := hf.snapshot_writer hn
    exact ⟨hms, hph, hd⟩
  · exact ⟨fun hn => absurd (by simp [oweWhileWaiting, tick_seq]) hn,
      fun hn => absurd hn (by simp [oweWhileWaiting, tick_seq])⟩
  · exact ⟨fun _ => .inl hm, fun _ => .inl hm⟩
  · exact ⟨fun hn => absurd (congrArg Seq.wt he.seq) hn,
      fun hn => absurd hn (by rw [he.seq]; simp)⟩

/-- A step that is not reset keeps the recorded program, records a SUBMIT, or clears the counters by PROGRAM. -/
theorem step_program {s t : State} (h : step s = .next t) (hr : nextMove s ≠ .reset) :
    SameProgram s.store t.store ∨
    (s.seq.fsm = .idle ∧ s.seq.execMode = .recording ∧ ∃ r n, s.env.port = some (.submit r n)) ∨
    (s.seq.fsm = .idle ∧ s.env.port = some .program ∧
      t.store = { s.store with stepCount := 0#9, loopCount := 0#4 }) := by
  obtain ⟨d, _, hf⟩ | ⟨_, rfl⟩ | ⟨hm, _⟩ | he := step_end h
  · exact hf.program_writer
  · exact .inl (.of_eq (by simp [oweWhileWaiting]))
  · exact absurd hm hr
  · exact .inl (.of_eq he.store)

/-- Settles O53: the program changes only where `step_program` says, and PROGRAM leaves its bytes and counts. -/
theorem storeIsWrittenOnlyInRecording : Obligations.StoreIsWrittenOnlyInRecording := by
  intro s t hstep
  by_cases hr : nextMove s = .reset
  · exact ⟨fun _ => .inl hr, fun _ => .inl hr⟩
  obtain ⟨hopc, harena, hsteps, hloops, hinit⟩ | ⟨hf, hm, hp⟩ | ⟨hf, hp, ht⟩ := step_program hstep hr
  · exact ⟨fun hn => absurd hn (by simp [hopc, harena, hinit]), fun hn => absurd hn (by simp [hsteps, hloops])⟩
  · exact ⟨fun _ => .inr ⟨hf, hm, hp⟩, fun _ => .inr ⟨hf, .inr ⟨hm, hp⟩⟩⟩
  · exact ⟨fun hn => absurd hn (by simp [ht]), fun _ => .inr ⟨hf, .inl hp⟩⟩

end Sys2Proof.Machine
end

section
/-! PROOFS. What no step undoes (20_memory.md R71, 00_scope.md R15): the output events stand, only more follow, and
the parameters stay. With them, what an environment's move does to the trace and the port. -/

namespace Sys2Proof.Machine

/-! ### A step by the agent that takes it -/

/-- Every step is a step of the FSM with no poll owed, a tick, or a move of the environment (R7). -/
theorem step_by_agent {s t : State} (h : step s = .next t) :
    (∃ d : Sched, d.pollOwed = false ∧ FsmEnd (s.withSched d) t) ∨ t = oweWhileWaiting (tick (consume s)) ∨
    (nextMove s ≠ .fsm ∧ nextMove s ≠ .tick ∧ applyMove (nextMove s) (consume s) = .next t) := by
  obtain ⟨d, hd, _, hf⟩ | ⟨hf, _, hm⟩ := step_cases h
  · exact .inl ⟨d, hd, fsmTransition_end hf⟩
  · by_cases ht : nextMove s = .tick
    · rw [ht] at hm
      exact .inr (.inl (next_inj.1 hm).symm)
    · exact .inr (.inr ⟨hf, ht, hm⟩)

/-- No move of the environment makes an output event, and only an offer of the front-end fills the port (R8). -/
theorem envMove_env {m : Move} {s t : State} (hf : m ≠ .fsm) (ht : m ≠ .tick) (h : applyMove m s = .next t) :
    t.env.trace = s.env.trace ∧ (t.env.port = s.env.port ∨ ∃ c, m = .issue c ∧ t.env.port = some c) := by
  cases m with
  | fsm => exact absurd rfl hf
  | tick => exact absurd rfl ht
  | rx b => cases next_inj.1 h; exact ⟨rfl, .inl rfl⟩
  | pinLevel p l => cases next_inj.1 h; exact ⟨rfl, .inl rfl⟩
  | txReady r => cases next_inj.1 h; exact ⟨rfl, .inl rfl⟩
  | adcFinish raw =>
    cases next_inj.1 h
    unfold finishConversion
    split <;> exact ⟨rfl, .inl rfl⟩
  | issue c =>
    cases next_inj.1 h
    unfold offer
    split
    next => exact ⟨rfl, .inr ⟨c, rfl, rfl⟩⟩
    next => exact ⟨rfl, .inl rfl⟩
  | frontEndPop =>
    cases next_inj.1 h
    unfold frontEndPop
    split <;> exact ⟨rfl, .inl rfl⟩
  | reset => cases next_inj.1 h; exact ⟨rfl, .inl rfl⟩

theorem envMove_cfg {m : Move} {s t : State} (hf : m ≠ .fsm) (ht : m ≠ .tick) (h : applyMove m s = .next t) :
    t.cfg = s.cfg := by
  obtain ⟨_, rfl⟩ | he := envMove_end hf ht h
  · rfl
  · exact he.cfg

/-! ### The trace only grows (R71) -/

theorem complete_trace_grows {es : List OutEvent} {s : State} (h : es <+: s.env.trace) :
    es <+: (complete s).env.trace := by
  rw [complete_env]
  exact h.trans (List.prefix_append _ _)

theorem ExecEnd.trace_grows {i : Instr} {s t : State} (h : ExecEnd i s t) : s.env.trace <+: t.env.trace := by
  cases h with
  | event e => exact complete_trace_grows (List.prefix_append _ _)
  | conversion p => exact List.prefix_append _ _
  | levelWait | msDelay | usDelay | output | steadyRead | byteWait | badSlot => exact List.prefix_rfl
  | _ => exact complete_trace_grows List.prefix_rfl

theorem PollEnd.trace_grows {s t : State} (h : PollEnd s t) : s.env.trace <+: t.env.trace := by
  cases h with
  | sending => exact List.prefix_append _ _
  | sent => exact complete_trace_grows (List.prefix_append _ _)
  | stay | settle | unsettled | rearmed | steady | badTarget | converted => exact List.prefix_rfl
  | _ => exact complete_trace_grows List.prefix_rfl

theorem FsmEnd.trace_grows {s t : State} (h : FsmEnd s t) : s.env.trace <+: t.env.trace := by
  cases h with
  | immediate r n i t _ _ _ _ _ he => exact he.trace_grows
  | fetched r i t _ _ he => exact he.trace_grows
  | polled t _ he => exact he.trace_grows
  | still | runStart | illegal | nextPass => exact List.prefix_rfl
  | _ => exact List.prefix_append _ _

theorem tick_trace_grows (s : State) : s.env.trace <+: (tick s).env.trace := by
  cases hd : s.timer.serviceDue s.cfg.svcPeriod with
  | false =>
    rw [tick_env_quiet hd]
  | true =>
    rw [tick_env_service hd]
    exact List.prefix_append _ _

/-! ### The parameters stay (R15) -/

theorem PollEnd.cfg_kept {s t : State} (h : PollEnd s t) : t.cfg = s.cfg := by
  cases h <;> simp [emitLevel]

theorem FsmEnd.cfg_kept {s t : State} (h : FsmEnd s t) : t.cfg = s.cfg := by
  cases h with
  | immediate r n i t _ _ _ _ _ he => exact he.sched_kept.2
  | fetched r i t _ _ he => exact he.sched_kept.2
  | polled t _ he => exact he.cfg_kept
  | _ => rfl

/-- Settles O55: the FSM and a tick add events at the end of the trace, the environment adds none, and none of them
writes a parameter. -/
theorem outputsStandAndParametersStay : Obligations.OutputsStandAndParametersStay := by
  intro s t hstep
  obtain ⟨d, _, hf⟩ | rfl | ⟨hf, ht, hm⟩ := step_by_agent hstep
  · exact ⟨hf.trace_grows, hf.cfg_kept⟩
  · exact ⟨tick_trace_grows (consume s), tick_cfg (consume s)⟩
  · refine ⟨?_, envMove_cfg (s := consume s) hf ht hm⟩
    rw [(envMove_env hf ht hm).1]
    exact List.prefix_rfl

end Sys2Proof.Machine
end

section
/-! PROOFS. The front-end's pin duty (20_memory.md R70, 60_exceptions.md R201, 70_reset_and_hazards.md R255): with it
and the invariant every part of a step answers a next state, and every step keeps the duty. -/

namespace Sys2Proof.Machine

/-! ### No part of a step stops -/

section Progress

variable {s : State}

theorem runs_next (t : State) : Runs (.next t) := ⟨t, rfl⟩

theorem withPinLevel_runs {p : Byte} (h : s.cfg.hasPin p = true) (k : Bool → State) : Runs (withPinLevel p s k) :=
  ⟨_, withPinLevel_next.2 ⟨_, pinRead_of_hasPin h, rfl⟩⟩

theorem drivePin_runs {p : Byte} (h : s.cfg.hasPin p = true) (m : PinMode) : Runs (drivePin p m s) :=
  ⟨_, drivePin_next.2 ⟨h, rfl⟩⟩

theorem execDelayUs_runs (v : Word16) : Runs (execDelayUs v s) := by
  unfold execDelayUs
  split <;> exact runs_next _

theorem execSetPwm_runs {p : Byte} (h : s.cfg.hasPwm p = true) (v : Word16) : Runs (execSetPwm p v s) := by
  rw [execSetPwm, if_pos (hasPin_of_hasPwm h), if_pos h]
  exact runs_next _

theorem execReadAnalog_runs {p : Byte} (h : s.cfg.hasAnalog p = true) : Runs (execReadAnalog p s) := by
  rw [execReadAnalog, if_pos (hasPin_of_hasAnalog h), if_pos h]
  exact runs_next _

/-- A slot below LOOP_COUNT is one of the ten (R28). -/
theorem execLoop_runs (h : s.store.loopCount.toNat ≤ Config.loopCap) (a k : Byte) : Runs (execLoop a k s) := by
  unfold execLoop
  split
  next => exact runs_next _
  next hk =>
    rw [dif_pos (Nat.lt_of_lt_of_le (Nat.lt_of_not_le hk) h)]
    exact runs_next _

/-- A dispatch part calls an interface on the pin of its operand alone (R70). -/
theorem exec_runs {i : Instr} (hp : i.pinsOk s.cfg = true) (hl : s.store.loopCount.toNat ≤ Config.loopCap) :
    Runs (exec i s) := by
  cases i with
  | waitChange p => exact withPinLevel_runs hp _
  | rawWaitChange p => exact withPinLevel_runs hp _
  | delayUs v => exact execDelayUs_runs v
  | setPwm p v => exact execSetPwm_runs hp v
  | setHigh p => exact drivePin_runs hp .high
  | setLow p => exact drivePin_runs hp .low
  | setTristate p => exact drivePin_runs hp .tristate
  | readDigital p => exact withPinLevel_runs hp _
  | readAnalog p => exact execReadAnalog_runs hp
  | loop a k => exact execLoop_runs hl a k
  | _ => exact runs_next _

theorem dispatch_runs {r : Rec} (hr : recPinsOk s.cfg r) (hl : s.store.loopCount.toNat ≤ Config.loopCap) :
    Runs (dispatch r s) := by
  unfold recPinsOk at hr
  unfold dispatch
  split
  next i hd =>
    rw [hd] at hr
    exact exec_runs hr hl
  next => exact runs_next _

/-- A poll that samples the pin of IR, but for CANCEL (R143, R144, R174). -/
theorem cancelOrSample_runs (hp : s.cfg.hasPin (irPin s) = true) (t : State) (k : Bool → State) :
    Runs (if s.seq.cancel then .next t else withPinLevel (irPin s) s k) := by
  split
  next => exact runs_next _
  next => exact withPinLevel_runs hp k

theorem pollDms_runs (s : State) : Runs (pollDms s) := by
  unfold pollDms
  split
  next => exact runs_next _
  next => split <;> exact runs_next _

theorem pollDus_runs (s : State) : Runs (pollDus s) := by
  unfold pollDus
  split <;> exact runs_next _

theorem pollCr_runs (s : State) : Runs (pollCr s) := by
  unfold pollCr
  split
  next => exact runs_next _
  next => split <;> exact runs_next _

theorem pollCg_runs (s : State) : Runs (pollCg s) := by
  unfold pollCg
  split
  next => exact runs_next _
  next => split <;> exact runs_next _

theorem pollAdc_runs (s : State) : Runs (pollAdc s) := by
  unfold pollAdc
  split <;> exact runs_next _

theorem pollTx_runs (h : s.seq.outq ≠ []) : Runs (pollTx s) := by
  unfold pollTx
  split
  next hq => exact absurd hq h
  next => split <;> exact runs_next _

theorem poll_runs (hw : s.seq.opw ≠ .none) (ho : s.seq.opw = .tx → s.seq.outq ≠ [])
    (hp : s.seq.opw.samplesPin = true → s.cfg.hasPin (irPin s) = true) : Runs (poll s) := by
  unfold poll
  split
  next h => exact absurd h hw
  next h => exact cancelOrSample_runs (hp (by rw [h]; rfl)) _ _
  next h => exact cancelOrSample_runs (hp (by rw [h]; rfl)) _ _
  next h => exact cancelOrSample_runs (hp (by rw [h]; rfl)) _ _
  next => exact pollDms_runs s
  next => exact pollDus_runs s
  next => exact pollCr_runs s
  next => exact pollCg_runs s
  next => exact pollAdc_runs s
  next h => exact pollTx_runs (ho h)

theorem acceptSubmit_runs {r : Rec} (hr : recPinsOk s.cfg r) (hl : s.store.loopCount.toNat ≤ Config.loopCap)
    (n : Word16) : Runs (acceptSubmit r n s) := by
  unfold acceptSubmit
  split
  next =>
    split
    next => exact runs_next _
    next =>
      unfold immediate
      dsimp only
      split
      next => exact runs_next _
      next => exact dispatch_runs hr hl
  next => exact runs_next _

theorem accept_runs {c : Command} (hc : commandOk s.cfg c) (hl : s.store.loopCount.toNat ≤ Config.loopCap) :
    Runs (accept c s) := by
  cases c with
  | submit r n => exact acceptSubmit_runs hc hl n
  | _ => exact runs_next _

theorem idleStep_runs (hs : StoreOk s.store) (hd : PinDuty s) : Runs (idleStep s) := by
  unfold idleStep
  split
  next => exact runs_next _
  next c hp => exact accept_runs (hd.offered c hp) hs.loop_count

/-- The head step fetches a stored step, which holds a value and keeps the duty (R53, R115). -/
theorem headStep_runs (hs : StoreOk s.store) (hd : PinDuty s) : Runs (headStep s) := by
  unfold headStep
  split
  next => exact runs_next _
  next =>
    split
    next hp =>
      obtain ⟨r, _, hr, _⟩ := hs.steps_defined _ hp
      rw [hr]
      exact dispatch_runs (hd.stored _ hp r hr) hs.loop_count
    next => exact runs_next _

theorem fsmTransition_runs (hs : Inv s) (hd : PinDuty s) : Runs (fsmTransition s) := by
  obtain ⟨wait_named, output_pending⟩ := hs.sequencer.waits
  unfold fsmTransition
  split
  next => exact idleStep_runs hs.store hd
  next => exact headStep_runs hs.store hd
  next hf => exact poll_runs (wait_named.1 hf) output_pending.1 hd.waiting
  next => exact runs_next _

theorem PinDuty.withSched (h : PinDuty s) (d : Sched) : PinDuty (s.withSched d) := { h with }

theorem step_runs (hs : Inv s) (hd : PinDuty s) : Runs (step s) := by
  have fsm_runs (d : Sched) (ho : d.pollOwed = false) : Runs (fsmTransition (s.withSched d)) :=
    fsmTransition_runs (hs.withSched ho) (hd.withSched d)
  unfold step
  split
  next => exact fsm_runs { s.sched with pollOwed := false } rfl
  next =>
    cases nextMove s with
    | fsm => exact fsm_runs { s.sched.consume with pollOwed := false } rfl
    | _ => exact runs_next _

end Progress

/-! ### The stored steps keep the duty (R113) -/

/-- Every stored step keeps the pin duty. -/
def StoredDuty (c : Params) (m : Store) : Prop :=
  ∀ i < m.stepCount.toNat, ∀ r, storeRead m i = some r → recPinsOk c r

theorem storedDuty_of_empty {c : Params} {m : Store} (h : m.stepCount = 0#9) : StoredDuty c m := by
  intro i hi
  rw [h] at hi
  exact absurd hi (Nat.not_lt_zero i)

theorem storeRead_congr {m m' : Store} (ho : m'.opc = m.opc) (ha : m'.arena = m.arena) (i : Nat) :
    storeRead m' i = storeRead m i := by
  simp only [storeRead, ho, ha]

theorem StoredDuty.of_sameProgram {c : Params} {m m' : Store} (h : StoredDuty c m) (hm : SameProgram m m') :
    StoredDuty c m' := by
  intro i hi r hr
  rw [hm.stepCount] at hi
  rw [storeRead_congr hm.opc hm.arena] at hr
  exact h i hi r hr

theorem StoredDuty.recordStep {c : Params} {m : Store} (h : StoredDuty c m) {r : Rec} (hr : recPinsOk c r) :
    StoredDuty c { storeWrite m m.stepCount.toNat r with stepCount := m.stepCount + 1#9 } := by
  intro i hi r' hr'
  by_cases hl : i = m.stepCount.toNat
  · subst hl
    cases (storeRead_storeWrite_same m _ r).symm.trans hr'
    exact hr
  · have hle : (m.stepCount + 1#9).toNat ≤ m.stepCount.toNat + 1 := by bv_omega
    have hlt : i < (m.stepCount + 1#9).toNat := hi
    exact h i (by omega) r' ((storeRead_storeWrite_other m r hl).symm.trans hr')

/-- The record as stored calls the interfaces the submitted one calls: a Loop calls none (R113). -/
theorem recPinsOk_storedRec {c : Params} {r : Rec} (h : recPinsOk c r) (n : BitVec 4) :
    recPinsOk c (storedRec n r) := by
  unfold storedRec
  split
  next hl =>
    have ht : recTag r = 0x14#8 := of_decide_eq_true hl
    simp [recPinsOk, decode, ht, Instr.pinsOk]
  next => exact h

theorem storeRead_allocSlot (n : Word16) (m : Store) (i : Nat) : storeRead (allocSlot n m) i = storeRead m i := by
  unfold allocSlot
  split
  next => exact storeRead_congr rfl rfl i
  next => rfl

theorem StoredDuty.allocSlot {c : Params} {m : Store} (h : StoredDuty c m) (n : Word16) :
    StoredDuty c (allocSlot n m) := by
  intro i hi r hr
  rw [allocSlot_stepCount] at hi
  rw [storeRead_allocSlot] at hr
  exact h i hi r hr

theorem StoredDuty.appendStore {c : Params} {m : Store} (h : StoredDuty c m) {r : Rec} (hr : recPinsOk c r)
    (n : Word16) : StoredDuty c (appendStore r n m).2 := by
  have hr' := recPinsOk_storedRec hr m.loopCount
  unfold Machine.appendStore
  split
  next => exact h
  next =>
    split
    next => exact h
    next =>
      split
      next => simpa only [allocSlot_stepCount] using (h.allocSlot n).recordStep hr'
      next => exact h.recordStep hr'

/-! ### The pin of a wait in progress (R143, R174) -/

/-- An opcode with a wait that samples the pin of IR has it as its operand, and its duty is that the pin exists; by
the rows of the decoder (R88), of which the others enter no such wait. -/
theorem hasPin_of_samplingWait {c : Params} {r : Rec} {i : Instr} {w : Opw} (hd : decode r = .instr i)
    (hp : recPinsOk c r) (hw : w ∈ waitsOf i) (hs : w.samplesPin = true) : c.hasPin (recOb0 r) = true := by
  rw [recPinsOk, hd] at hp
  unfold decode at hd
  split at hd <;> cases hd
  all_goals grind [waitsOf, Instr.pinsOk, Opw.samplesPin]

/-- What a dispatch part leaves in OPW (R117, R121, R209). -/
theorem ExecEnd.opw {i : Instr} {s t : State} (h : ExecEnd i s t) : t.seq.opw ∈ waitsOf i ∨ t.seq.opw = .none := by
  obtain ⟨_, hw, _⟩ | ⟨_, _, hw, _⟩ | ⟨_, _, hw, _⟩ | ⟨_, _, hw, _⟩ := h.outcome
  · exact .inl hw
  all_goals exact .inr hw

/-- A wait entered by the record in IR samples a pin that exists. -/
theorem ExecEnd.waiting {i : Instr} {s t : State} (h : ExecEnd i s t) (hd : decode s.seq.ir = .instr i)
    (hp : recPinsOk s.cfg s.seq.ir) (hs : t.seq.opw.samplesPin = true) : t.cfg.hasPin (irPin t) = true := by
  obtain ⟨_, hir, _⟩ := h.seq_kept
  rw [irPin, hir, h.sched_kept.2]
  obtain hw | hw := h.opw
  · exact hasPin_of_samplingWait hd hp hw hs
  · rw [hw] at hs
    exact absurd hs (by decide)

/-- No poll turns a wait that samples no pin into one that does, and none writes IR. -/
theorem PollEnd.waiting_kept {s t : State} (h : PollEnd s t) (hs : t.seq.opw.samplesPin = true) :
    s.seq.opw.samplesPin = true ∧ t.seq.ir = s.seq.ir := by
  cases h with
  | stay => exact ⟨hs, rfl⟩
  | settle hw => exact ⟨by rw [hw]; rfl, rfl⟩
  | unsettled hw => exact ⟨by rw [hw]; rfl, rfl⟩
  | rearmed l hw => exact ⟨by rw [hw]; rfl, rfl⟩
  | sending b bs hw => simp [hw, Opw.samplesPin] at hs
  | _ => simp [Opw.samplesPin] at hs

/-! ### An FSM step keeps the duty -/

theorem ExecEnd.port_kept {i : Instr} {s t : State} (h : ExecEnd i s t) : t.env.port = s.env.port := by
  obtain ⟨_, _, _, hp⟩ := h.env_kept
  exact hp

theorem PollEnd.port_kept {s t : State} (h : PollEnd s t) : t.env.port = s.env.port := by
  cases h <;> simp [emitLevel]

/-- The FSM only takes the offer off the port (R110). -/
theorem FsmEnd.port_kept {s t : State} (h : FsmEnd s t) : t.env.port = s.env.port ∨ t.env.port = none := by
  cases h with
  | immediate r n i t _ _ _ _ _ he => exact .inr he.port_kept
  | fetched r i t _ _ he => exact .inl he.port_kept
  | polled t _ he => exact .inl he.port_kept
  | still | cancelRun | illegal | lastPass | nextPass => exact .inl rfl
  | _ => exact .inr rfl

theorem FsmEnd.storedDuty {s t : State} (h : FsmEnd s t) (hd : PinDuty s) : StoredDuty s.cfg t.store := by
  have hm : StoredDuty s.cfg s.store := hd.stored
  cases h with
  | program => exact storedDuty_of_empty rfl
  | recorded r n ho => exact hm.appendStore (hd.offered _ ho.2) n
  | immediate r n i t _ _ _ _ _ he => exact hm.of_sameProgram he.sameProgram
  | runStart => exact hm.of_sameProgram (sameProgram_clearActive _)
  | fetched r i t _ _ he => exact hm.of_sameProgram he.sameProgram
  | nextPass => exact hm.of_sameProgram (sameProgram_clearActive _)
  | polled t _ he => exact hm.of_sameProgram (.of_eq he.store_kept)
  | _ => exact hm

theorem FsmEnd.waiting {s t : State} (h : FsmEnd s t) (hs : Inv s) (hd : PinDuty s)
    (hw : t.seq.opw.samplesPin = true) : t.cfg.hasPin (irPin t) = true := by
  cases h with
  | skipped r n ho =>
    have hn : s.seq.opw = .none := hs.opw_of_not_waiting (by simp [ho.1])
    simp [hn, Opw.samplesPin] at hw
  | immediate r n i t ho _ _ _ hi he => exact he.waiting hi (hd.offered _ ho.2) hw
  | fetched r i t hr hi he =>
    obtain ⟨_, _, hp, hr⟩ := hr
    exact he.waiting hi (hd.stored _ hp r hr) hw
  | illegal => exact (nomatch hw)
  | polled t _ he =>
    obtain ⟨hw', hir⟩ := he.waiting_kept hw
    rw [irPin, hir, he.cfg_kept]
    exact hd.waiting hw'
  | _ => exact hd.waiting hw

theorem FsmEnd.pinDuty {s t : State} (h : FsmEnd s t) (hs : Inv s) (hd : PinDuty s) : PinDuty t where
  stored := by
    rw [h.cfg_kept]
    exact h.storedDuty hd
  offered c hp := by
    rw [h.cfg_kept]
    obtain hk | hk := h.port_kept
    · exact hd.offered c (hk ▸ hp)
    · exact absurd (hk.symm.trans hp) (by simp)
  waiting := h.waiting hs hd

/-! ### The other agents keep the duty -/

theorem tick_port (s : State) : (tick s).env.port = s.env.port := by
  cases hd : s.timer.serviceDue s.cfg.svcPeriod with
  | false => rw [tick_env_quiet hd]
  | true => rw [tick_env_service hd]

theorem PinDuty.tick {s : State} (h : PinDuty s) : PinDuty (oweWhileWaiting (tick s)) where
  stored := by simpa [oweWhileWaiting] using h.stored
  offered := by simpa [oweWhileWaiting, tick_port] using h.offered
  waiting := by simpa [oweWhileWaiting, irPin, tick_seq] using h.waiting

/-- Reset empties the store and ends the wait; the offer stays (R240). -/
theorem PinDuty.blockReset {s : State} (h : PinDuty s) : PinDuty (blockReset s) where
  stored := storedDuty_of_empty rfl
  offered := h.offered
  waiting hw := (nomatch hw)

/-- The environment's move keeps the duty where its offer does (R255). -/
theorem PinDuty.envMove {m : Move} {s t : State} (h : PinDuty s) (hf : m ≠ .fsm) (ht : m ≠ .tick)
    (hc : ∀ c, m = .issue c → commandOk s.cfg c) (hm : applyMove m s = .next t) : PinDuty t := by
  obtain ⟨_, rfl⟩ | he := envMove_end hf ht hm
  · exact h.blockReset
  · refine ⟨?_, fun c hp => ?_, ?_⟩
    · rw [he.cfg, he.store]
      exact h.stored
    · rw [he.cfg]
      obtain hk | ⟨c', hi, hk⟩ := (envMove_env hf ht hm).2
      · exact h.offered c (hk ▸ hp)
      · cases hk.symm.trans hp
        exact hc c hi
    · rw [irPin, he.cfg, he.seq]
      exact h.waiting

theorem step_keeps_pinDuty {s t : State} (hs : Inv s) (hd : PinDuty s) (hm : MoveDuty s) (h : step s = .next t) :
    PinDuty t := by
  obtain ⟨d, ho, hf⟩ | rfl | ⟨hf, ht, ha⟩ := step_by_agent h
  · exact hf.pinDuty (hs.withSched ho) (hd.withSched d)
  · exact PinDuty.tick (s := consume s) (hd.withSched _)
  · exact PinDuty.envMove (s := consume s) (hd.withSched _) hf ht hm ha

/-- Settles O58: no part of a step stops where every pin submitted exists, and each agent keeps the duty. -/
theorem dutifulFrontEndNeverStopsTheBlock : Obligations.DutifulFrontEndNeverStopsTheBlock := by
  intro s hs hd
  obtain ⟨t, ht⟩ := step_runs hs hd
  exact ⟨t, ht, fun hm => step_keeps_pinDuty hs hd hm ht⟩

end Sys2Proof.Machine
end

section
/-! PROOFS. The decoder and the encoder (30_encoding.md R81–R91): the encoder is the decoder's inverse up to the
ignored bits, and which tags spell no opcode. -/

namespace Sys2Proof

/-! ### Decoding an encoded instruction (R84–R88) -/

/-- Settles O40: each layout puts its operand in the bytes the decoder reads; a 16-bit one is its two bytes. -/
theorem decodeInvertsEncode : Obligations.DecodeInvertsEncode := by
  intro i
  cases i with
  | setWaitTime v | delayMs v | delayUs v => simp [decode, encode, Instr.tag, recV_bytes]
  | setPwm p v => simp [decode, encode, Instr.tag, recPv_bytes]
  | _ => simp [decode, encode, Instr.tag]

/-- Settles O39: the decoder evaluated on each word. -/
theorem writtenWordsDecode : Obligations.WrittenWordsDecode := by
  unfold Obligations.WrittenWordsDecode
  decide

/-! ### Tags (R81, R90) -/

/-- An instruction's tag spells an opcode (R88). -/
theorem Instr.tag_le (i : Instr) : i.tag.toNat ≤ 0x16 := by
  cases i <;> simp [Instr.tag]

/-- Exactly the tags up to 0x16 spell an opcode (R90). -/
theorem decodes_iff {r : Rec} : (∃ i, decode r = .instr i) ↔ (recTag r).toNat ≤ 0x16 := by
  constructor
  · rintro ⟨i, hd⟩
    rw [Machine.recTag_of_decode hd]
    exact i.tag_le
  · exact decode_of_defined

/-- A reserved record decodes to its own tag. -/
theorem tag_of_decode_reserved {r : Rec} {tag : Byte} (h : decode r = .reserved tag) : tag = recTag r := by
  unfold decode at h
  split at h <;> cases h
  rfl

/-- A tag from 0x17 on is reserved (R90). -/
theorem decode_of_reserved {r : Rec} (h : 0x17 ≤ (recTag r).toNat) : decode r = .reserved (recTag r) := by
  cases hd : decode r with
  | instr i =>
    have hle := decodes_iff.1 ⟨i, hd⟩
    omega
  | reserved tag => rw [tag_of_decode_reserved hd]

/-- The port refuses a reserved tag (R111). -/
theorem acceptSubmit_of_reserved {r : Rec} (h : 0x17 ≤ (recTag r).toNat) (count : Word16) (s : Machine.State) :
    Machine.acceptSubmit r count s = .next (Machine.respond .badOpcode s) := by
  have ht : ¬ (recTag r).toNat ≤ 0x16 := by omega
  simp [Machine.acceptSubmit, tagDefined, ht]

/-- Settles O42: the port tests the bound the decoder's rows have. -/
theorem reservedTagsAreRefused : Obligations.ReservedTagsAreRefused := by
  intro r
  refine ⟨decodes_iff.trans Nat.lt_succ_iff.symm, fun h s count => ⟨acceptSubmit_of_reserved h count s, ?_⟩⟩
  rw [Machine.dispatch, decode_of_reserved h]

/-! ### The bits a layout names (R83–R87) -/

@[simp] theorem hiByte_append (a b : Byte) : hiByte (a ++ b) = a :=
  BitVec.extractLsb'_append_eq_left

@[simp] theorem loByte_append (a b : Byte) : loByte (a ++ b) = b :=
  BitVec.extractLsb'_append_eq_right

@[simp] theorem byte_and_ff (b : Byte) : b &&& 0xFF#8 = b :=
  BitVec.and_allOnes

/-- A mask acts on each byte of a record. -/
theorem and_mkRec (r : Rec) (t b₃ b₂ b₁ b₀ : Byte) : r &&& mkRec t b₃ b₂ b₁ b₀ =
    mkRec (recTag r &&& t) (recOb3 r &&& b₃) (recOb2 r &&& b₂) (recOb1 r &&& b₁) (recOb0 r &&& b₀) := by
  nth_rw 1 [← mkRec_fields r]
  unfold mkRec
  rw [BitVec.and_append, BitVec.and_append, BitVec.and_append, BitVec.and_append]

/-- Layout N names the tag alone. -/
theorem and_layoutN (r : Rec) : r &&& 0xFF00000000#40 = mkRec (recTag r) 0 0 0 0 := by
  have hm : 0xFF00000000#40 = mkRec 0xFF 0 0 0 0 := by decide
  simp [hm, and_mkRec]

/-- Layouts P, B and G name one operand byte. -/
theorem and_layoutP (r : Rec) : r &&& 0xFF000000FF#40 = mkRec (recTag r) 0 0 0 (recOb0 r) := by
  have hm : 0xFF000000FF#40 = mkRec 0xFF 0 0 0 0xFF := by decide
  simp [hm, and_mkRec]

/-- Layouts V and L name two operand bytes. -/
theorem and_layoutV (r : Rec) : r &&& 0xFF0000FFFF#40 = mkRec (recTag r) 0 0 (recOb1 r) (recOb0 r) := by
  have hm : 0xFF0000FFFF#40 = mkRec 0xFF 0 0 0xFF 0xFF := by decide
  simp [hm, and_mkRec]

/-- Layout PV names three operand bytes. -/
theorem and_layoutPV (r : Rec) :
    r &&& 0xFF00FFFFFF#40 = mkRec (recTag r) 0 (recOb2 r) (recOb1 r) (recOb0 r) := by
  have hm : 0xFF00FFFFFF#40 = mkRec 0xFF 0 0xFF 0xFF 0xFF := by decide
  simp [hm, and_mkRec]

/-- Encoding a decoded instruction clears the ignored bits: row by row (R88), by the row's layout. -/
theorem encode_of_decode {r : Rec} {i : Instr} (h : decode r = .instr i) : encode i = r &&& namedBits (recTag r) := by
  have ht := Machine.recTag_of_decode h
  unfold decode at h
  split at h <;> cases h
  all_goals
    simp [ht, Instr.tag, encode, namedBits, and_layoutN, and_layoutP, and_layoutV, and_layoutPV, recV_bytes,
      recPv_bytes]

/-- The ignored bits do not matter: the two records decode to instructions with one encoding, so to the same one. -/
theorem decode_eq_of_named_bits {r r' : Rec} (ht : recTag r = recTag r')
    (hn : r &&& namedBits (recTag r) = r' &&& namedBits (recTag r)) : decode r = decode r' := by
  obtain hle | hgt : (recTag r).toNat ≤ 0x16 ∨ 0x17 ≤ (recTag r).toNat := by omega
  · obtain ⟨i, hi⟩ := decode_of_defined hle
    obtain ⟨j, hj⟩ := decode_of_defined (ht ▸ hle)
    have he : encode i = encode j := by rw [encode_of_decode hi, encode_of_decode hj, hn, ht]
    calc decode r = .instr i := hi
      _ = decode (encode i) := (decodeInvertsEncode i).symm
      _ = decode (encode j) := by rw [he]
      _ = .instr j := decodeInvertsEncode j
      _ = decode r' := hj.symm
  · rw [decode_of_reserved hgt, decode_of_reserved (ht ▸ hgt), ht]

/-- Settles O41: the encoder returns exactly the named bits, so the decoder, which it inverts, reads no others. -/
theorem ignoredBitsCarryNothing : Obligations.IgnoredBitsCarryNothing :=
  ⟨fun _ _ => decode_eq_of_named_bits, fun _ _ => encode_of_decode⟩

end Sys2Proof
end

section
/-! PROOFS. The FSM's own steps (40_engine.md R110–R122, R128): completion, the commands of the port, the head step,
and what a step of the machine does when the FSM is next or owes a poll. -/

namespace Sys2Proof.Machine

/-! ### Completion (R116, R121, R122) -/

/-- Settles O1: a run's end is written out, and complete() is one equation in each context. -/
theorem completionReturnsTheSequencer : Obligations.CompletionReturnsTheSequencer :=
  fun _ => ⟨fun _ => rfl, complete_run, complete_imm⟩

/-! ### PROGRAM, END and RUN (R112, R114) -/

/-- Settles O29: both commands are accepted in one case each, with no branch. -/
theorem programAndEndSwitchTheMode : Obligations.ProgramAndEndSwitchTheMode :=
  fun _ => ⟨rfl, rfl⟩

theorem acceptRun_zero (s : State) : acceptRun 0#16 s =
    respond (.done false) (s.withSeq { s.seq with cancel := false, lastCancelled := false }) :=
  rfl

theorem acceptRun_of_ne_zero {n : Word16} (hn : n ≠ 0#16) (s : State) : acceptRun n s =
    (s.withStore (clearActive s.store)).withSeq
      { s.seq with cancel := false, iter := n, pc := 0#9, ctx := .run, watchQuit := true, fsm := .runHead } :=
  if_neg hn

/-- Settles O32: without a pass to make the run is over; with one it begins. -/
theorem runStartsAtStepZero : Obligations.RunStartsAtStepZero := by
  refine fun n s => ⟨?noPass, fun hn => ?passes⟩
  case noPass =>
    rintro rfl
    exact next_inj.2 (acceptRun_zero s)
  case passes => exact next_inj.2 (acceptRun_of_ne_zero hn s)

/-! ### SUBMIT by execute mode (R111, R118, R119) -/

theorem tagDefined_iff {tag : Byte} : tagDefined tag = true ↔ tag.toNat ≤ 0x16 :=
  decide_eq_true_iff

theorem acceptSubmit_recording {r : Rec} {s : State} (ht : (recTag r).toNat ≤ 0x16)
    (hm : s.seq.execMode = .recording) (count : Word16) : acceptSubmit r count s = .next (append r count s) := by
  rw [acceptSubmit, if_pos (tagDefined_iff.2 ht), hm]

theorem acceptSubmit_immediate {r : Rec} {s : State} (ht : (recTag r).toNat ≤ 0x16)
    (hm : s.seq.execMode = .immediate) (count : Word16) : acceptSubmit r count s = immediate r s := by
  rw [acceptSubmit, if_pos (tagDefined_iff.2 ht), hm]

theorem skippedTag_iff {tag : Byte} : skippedTag tag = true ↔ tag = 0x13#8 ∨ tag = 0x14#8 ∨ tag = 0x15#8 := by
  simp [skippedTag, or_assoc]

theorem immediate_of_skipped {r : Rec} (h : skippedTag (recTag r) = true) (s : State) :
    immediate r s = .next (finishImm (loadImmediate r s)) :=
  if_pos h

theorem immediate_of_not_skipped {r : Rec} (h : skippedTag (recTag r) ≠ true) (s : State) :
    immediate r s = dispatch r (loadImmediate r s) :=
  if_neg h

/-- Settles O33: the three tags spell opcodes, so the port takes them and the immediate step skips them. -/
theorem immediateJumpsAreSkipped : Obligations.ImmediateJumpsAreSkipped := by
  intro r count s hm htag
  have ht : (recTag r).toNat ≤ 0x16 := by obtain h | h | h := htag <;> simp [h]
  calc accept (.submit r count) s
      _ = immediate r s := acceptSubmit_immediate ht hm count
      _ = .next (finishImm (loadImmediate r s)) := immediate_of_skipped (skippedTag_iff.2 htag) s

/-! ### The head step (R115) -/

theorem headStep_cancelled {s : State} (hc : s.seq.cancel = true) : headStep s = .next (finishRun true s) :=
  if_pos hc

theorem headStep_fetch {s : State} {r : Rec} (hc : s.seq.cancel = false)
    (hp : s.seq.pc.toNat < s.store.stepCount.toNat) (hr : storeRead s.store s.seq.pc.toNat = some r) :
    headStep s = dispatch r (loadFetched r s) := by
  rw [headStep, if_neg (by simp [hc]), if_pos hp, hr]

theorem headStep_past {s : State} (hc : s.seq.cancel = false) (hp : s.store.stepCount.toNat ≤ s.seq.pc.toNat) :
    headStep s = .next (endPass s) := by
  rw [headStep, if_neg (by simp [hc]), if_neg (Nat.not_lt.2 hp)]

theorem endPass_last {s : State} (hi : s.seq.iter = 1#16) :
    endPass s = finishRun false (s.withSeq { s.seq with iter := 0#16 }) :=
  if_pos hi

theorem endPass_more {s : State} (hi : s.seq.iter ≠ 1#16) : endPass s = nextPass s :=
  if_neg hi

/-- Settles O34: the branches of the head step, and of the end of a pass, one by one. -/
theorem headStepEndsPassesAndRuns : Obligations.HeadStepEndsPassesAndRuns := by
  refine fun s => ⟨headStep_cancelled, fun r => headStep_fetch, fun hc hp hi => ?last, fun hc hp hi => ?more⟩
  case last => rw [headStep_past hc hp, endPass_last hi]; rfl
  case more => rw [headStep_past hc hp, endPass_more hi]; rfl

/-! ### A step of the machine in which the FSM is next (R7, R110) -/

theorem step_of_fsm {s : State} (h : nextMove s = .fsm) :
    step s = fsmTransition (payPoll (consume s)) :=
  step_of_nextMove h (by simp)

theorem fsmTransition_idle {s : State} (h : s.seq.fsm = .idle) : fsmTransition s = idleStep s := by
  rw [fsmTransition, h]

theorem fsmTransition_runHead {s : State} (h : s.seq.fsm = .runHead) : fsmTransition s = headStep s := by
  rw [fsmTransition, h]

theorem fsmTransition_opWait {s : State} (h : s.seq.fsm = .opWait) : fsmTransition s = poll s := by
  rw [fsmTransition, h]

theorem fsmTransition_fault {s : State} (h : s.seq.fsm = .fault) : fsmTransition s = .next s := by
  rw [fsmTransition, h]

theorem idleStep_of_no_offer {s : State} (h : s.env.port = none) : idleStep s = .next s := by
  rw [idleStep, h]

theorem idleStep_of_offer {s : State} {c : Command} (h : s.env.port = some c) :
    idleStep s = accept c (takeOffer s) := by
  rw [idleStep, h]
  rfl

theorem dispatch_of_decode {r : Rec} {i : Instr} (h : decode r = .instr i) (s : State) :
    dispatch r s = exec i s := by
  rw [dispatch, h]

/-- In Immediate mode the step takes the submitted record off the port and runs its instruction (R110, R118). -/
theorem idleStep_immediate {s : State} {r : Rec} {i : Instr} {count : Word16} (hd : decode r = .instr i)
    (hm : s.seq.execMode = .immediate) (ho : s.env.port = some (.submit r count))
    (hs : skippedTag (recTag r) ≠ true) : idleStep s = exec i (loadImmediate r (takeOffer s)) :=
  calc idleStep s
    _ = acceptSubmit r count (takeOffer s) := idleStep_of_offer ho
    _ = immediate r (takeOffer s) := acceptSubmit_immediate (s := takeOffer s) (decodes_iff.1 ⟨i, hd⟩) hm count
    _ = dispatch r (loadImmediate r (takeOffer s)) := immediate_of_not_skipped hs _
    _ = exec i (loadImmediate r (takeOffer s)) := dispatch_of_decode hd _

/-- Settles O35: the FSM's transition by its state; in a run and in Immediate mode it comes down to the dispatch of
the decoded record. -/
theorem stepRunsTheDecodedInstruction : Obligations.StepRunsTheDecodedInstruction := by
  intro s hn u
  have hstep : step s = fsmTransition u := step_of_fsm hn
  refine ⟨fun hf => ?head, fun hf => ?wait, fun hf => ?fault, fun hf ho => ?noOffer, fun r i hd =>
    ⟨fun hf hc hp hr => ?fetched, fun count hf hm ho hg hl hj => ?submitted⟩⟩
  case head => exact hstep.trans (fsmTransition_runHead hf)
  case wait => exact hstep.trans (fsmTransition_opWait hf)
  case fault => exact hstep.trans (fsmTransition_fault hf)
  case noOffer => exact hstep.trans ((fsmTransition_idle (s := u) hf).trans (idleStep_of_no_offer ho))
  case fetched =>
    calc step s
      _ = headStep u := hstep.trans (fsmTransition_runHead hf)
      _ = dispatch r (loadFetched r u) := headStep_fetch hc hp hr
      _ = exec i (loadFetched r u) := dispatch_of_decode hd _
  case submitted =>
    have hs : skippedTag (recTag r) ≠ true := by simp [skippedTag_iff, hg, hl, hj]
    calc step s
      _ = idleStep u := hstep.trans (fsmTransition_idle hf)
      _ = exec i (loadImmediate r (takeOffer u)) := idleStep_immediate hd hm ho hs

/-! ### The port (R8, R110) -/

theorem offer_of_not_idle {s : State} (h : s.seq.fsm ≠ .idle) (c : Command) : offer c s = s :=
  if_neg fun hp => h (of_decide_eq_true (Bool.and_eq_true_iff.1 hp).1)

theorem offer_idle {s : State} (h : s.seq.fsm = .idle) (hp : s.env.port = none) (c : Command) :
    offer c s = s.withEnv { s.env with port := some c } := by
  simp [offer, portReady, h, hp]

/-- Settles O36: the FSM's step in IDLE takes the offer, and the front-end's move is the offer itself. -/
theorem portIsReadyOnlyInIdle : Obligations.PortIsReadyOnlyInIdle := by
  refine ⟨fun s c hn hf hp => ?accepted, fun s c hn hf => ?busy, fun s c hn hf hp => ?offered⟩
  case accepted =>
    calc step s
      _ = fsmTransition (payPoll (consume s)) := step_of_fsm hn
      _ = idleStep (payPoll (consume s)) := fsmTransition_idle hf
      _ = accept c (takeOffer (payPoll (consume s))) := idleStep_of_offer hp
  case busy =>
    rw [step_of_nextMove hn (by simp)]
    exact next_inj.2 (offer_of_not_idle (s := consume s) hf c)
  case offered =>
    rw [step_of_nextMove hn (by simp)]
    exact next_inj.2 (offer_idle (s := consume s) hf hp c)

/-! ### A poll between two ticks (R128) -/

theorem step_of_tick {s : State} (h : nextMove s = .tick) (ho : s.sched.pollOwed = false) :
    step s = .next (oweWhileWaiting (tick (consume s))) := by
  have hp : ¬ pollFirst s = true := by simp [pollFirst_iff, ho]
  rw [step, if_neg hp, h]
  rfl

theorem step_of_pollFirst {s : State} (h : pollFirst s = true) : step s = fsmStep s :=
  if_pos h

/-- What is next does not depend on the poll owed. -/
theorem nextMove_of_sched {s t : State} {b : Bool} (h : t.sched = { s.sched with pollOwed := b }) :
    nextMove t = nextMove s := by
  cases hm : s.sched.moves <;> simp [nextMove, Sched.refill, h, hm]

/-- Settles O38: a tick leaves the FSM's state and notes the poll owed; the owed poll is the FSM's step, and that
writes the poll owed alone in the schedule. -/
theorem pollComesBetweenTwoTicks : Obligations.PollComesBetweenTwoTicks := by
  refine ⟨fun s t hf hn ho h => ?owes, fun s hf hn ho => ?pays⟩
  case owes =>
    cases next_inj.1 ((step_of_tick hn ho).symm.trans h)
    have hf' : (tick (consume s)).seq.fsm = .opWait := by simpa [tick_seq] using hf
    exact ⟨hf', decide_eq_true hf'⟩
  case pays =>
    have hstep : step s = fsmStep s := step_of_pollFirst ((pollFirst_iff s).2 ⟨hn, ho, hf⟩)
    refine ⟨hstep.trans (fsmTransition_opWait hf), fun t ht => ?_⟩
    have hsched := fsmStep_sched (hstep.symm.trans ht)
    exact ⟨(nextMove_of_sched hsched).trans hn, by rw [hsched]⟩

end Sys2Proof.Machine
end

section
/-! PROOFS. The append of a recorded SUBMIT (40_engine.md R113; 20_memory.md R62, R63; 30_encoding.md R92): the record
goes to index STEP_COUNT, and a Loop's slot is allocated on the way. -/

namespace Sys2Proof.Machine

/-! ### One more step in the store (R62) -/

/-- The store with this record as its next step. -/
def recordStep (r : Rec) (m : Store) : Store :=
  { storeWrite m m.stepCount.toNat r with stepCount := m.stepCount + 1#9 }

@[simp] theorem recordStep_loopCount (r : Rec) (m : Store) : (recordStep r m).loopCount = m.loopCount := rfl
@[simp] theorem recordStep_slots (r : Rec) (m : Store) : (recordStep r m).slots = m.slots := rfl

theorem recordStep_stepCount {m : Store} (h : m.stepCount.toNat < 256) (r : Rec) :
    (recordStep r m).stepCount.toNat = m.stepCount.toNat + 1 := by
  simp only [recordStep]
  bv_omega

theorem storeRead_recordStep (r : Rec) (m : Store) : storeRead (recordStep r m) m.stepCount.toNat = some r :=
  (storeRead_congr rfl rfl _).trans (storeRead_storeWrite_same m _ r)

theorem recordStep_opc_other (m : Store) {a : Nat} (r : Rec) (h : a ≠ m.stepCount.toNat) :
    (recordStep r m).opc.read a = m.opc.read a :=
  storeWrite_opc_other m r h

theorem recordStep_arena_other (m : Store) {a : Nat} (r : Rec)
    (h : a < 4 * m.stepCount.toNat ∨ 4 * m.stepCount.toNat + 4 ≤ a) :
    (recordStep r m).arena.read a = m.arena.read a := by
  refine storeWrite_arena_other m r fun k hk => ?_
  simp only [arenaAddr, Config.operandBytes]
  omega

/-! ### The slot of a Loop step (R38, R113) -/

/-- The store the step is recorded in: a Loop has its slot allocated first. -/
def slotFor (r : Rec) (count : Word16) (m : Store) : Store := if isLoopRec r then allocSlot count m else m

theorem isLoopRec_iff {r : Rec} : isLoopRec r = true ↔ recTag r = 0x14#8 :=
  decide_eq_true_iff

theorem slotFor_of_loop {r : Rec} (h : recTag r = 0x14#8) (count : Word16) (m : Store) :
    slotFor r count m = allocSlot count m :=
  if_pos (isLoopRec_iff.2 h)

theorem slotFor_of_not_loop {r : Rec} (h : recTag r ≠ 0x14#8) (count : Word16) (m : Store) :
    slotFor r count m = m :=
  if_neg fun hl => h (isLoopRec_iff.1 hl)

theorem allocSlot_slot {m : Store} (h : m.loopCount.toNat < 10) (count : Word16) (k : Fin 10) :
    (allocSlot count m).slots[k.val] = if k.val = m.loopCount.toNat
      then { m.slots[k.val] with init := count } else m.slots[k.val] := by
  simp only [allocSlot, dif_pos h]
  split
  next hk => simp [hk]
  next hk => exact Vector.getElem_set_ne _ _ (Ne.symm hk)

/-- Allocating a slot writes nothing of the recorded steps. -/
theorem slotFor_program (r : Rec) (count : Word16) (m : Store) :
    (slotFor r count m).stepCount = m.stepCount ∧ (slotFor r count m).opc = m.opc ∧
      (slotFor r count m).arena = m.arena := by
  unfold slotFor allocSlot
  split
  next => split <;> exact ⟨rfl, rfl, rfl⟩
  next => exact ⟨rfl, rfl, rfl⟩

/-! ### The append (R113) -/

theorem storedRec_of_loop {r : Rec} (h : recTag r = 0x14#8) (c : BitVec 4) : storedRec c r =
    mkRec 0x14#8 (recOb3 r) (recOb2 r) (BitVec.ofNat 8 c.toNat) (recOb0 r) := by
  rw [storedRec, if_pos (isLoopRec_iff.2 h), h, BitVec.ofNat_toNat]

theorem storedRec_of_not_loop {r : Rec} (h : recTag r ≠ 0x14#8) (c : BitVec 4) : storedRec c r = r :=
  if_neg fun hl => h (isLoopRec_iff.1 hl)

theorem appendStore_of_room {r : Rec} {m : Store} (hs : m.stepCount.toNat < 256)
    (hl : recTag r = 0x14#8 → m.loopCount.toNat < 10) (count : Word16) :
    appendStore r count m = (.ok, recordStep (storedRec m.loopCount r) (slotFor r count m)) := by
  have hsteps : ¬ stepsFull m = true := by simpa [stepsFull] using hs
  have hslots : ¬ (isLoopRec r && slotsFull m) = true := by simpa [isLoopRec, slotsFull] using hl
  obtain ⟨hc, -, -⟩ := slotFor_program r count m
  rw [appendStore, if_neg hsteps, if_neg hslots, recordStep, hc]
  rfl

/-- Settles O30: there is room, so the record as stored is the next step of the store with its slot allocated. -/
theorem appendStoresTheNextStep : Obligations.AppendStoresTheNextStep := by
  intro r count s ht hm hs hl
  obtain ⟨hc, hopc, harena⟩ := slotFor_program r count s.store
  refine ⟨recordStep (storedRec s.store.loopCount r) (slotFor r count s.store), ?accepted, ?counted, ?stored,
    fun a ha => ?tags, fun a ha => ?operands, fun hp => ?plain, fun hp => ?loop⟩
  case accepted =>
    have hacc : accept (.submit r count) s = .next (append r count s) := acceptSubmit_recording ht hm count
    rw [hacc, append, appendStore_of_room hs hl]
    rfl
  case counted => rw [recordStep_stepCount (hc.symm ▸ hs), hc]
  case stored =>
    rw [← hc, storeRead_recordStep]
    split
    next hp => rw [storedRec_of_loop hp]
    next hp => rw [storedRec_of_not_loop hp]
  case tags => rw [recordStep_opc_other _ _ (hc.symm ▸ ha), hopc]
  case operands => rw [recordStep_arena_other _ _ (hc.symm ▸ ha), harena]
  case plain => rw [slotFor_of_not_loop hp]; exact ⟨rfl, rfl⟩
  case loop =>
    rw [slotFor_of_loop hp]
    exact ⟨allocSlot_loopCount count (hl hp), allocSlot_slot (hl hp) count⟩

end Sys2Proof.Machine
end

section
/-! PROOFS. The bytes the block reports: the decimal digits of a number (40_engine.md R124), and the ADC and TX polls,
which queue and send them (44_pin_ops.md R175, 40_engine.md R123). -/

namespace Sys2Proof.Machine

/-! ### Decimal digits (R124) -/

theorem digitByte_toNat {d : Nat} (h : d < 10) : (digitByte d).toNat = 0x30 + d := by
  simp only [digitByte, BitVec.toNat_ofNat]
  omega

theorem isDigit_digitByte {d : Nat} (h : d < 10) : isDigit (digitByte d) = true := by
  simp only [isDigit, digitByte_toNat h, Bool.and_eq_true, decide_eq_true_eq]
  omega

theorem spelled_append_digit (bs : List Byte) {d : Nat} (h : d < 10) :
    spelled (bs ++ [digitByte d]) = 10 * spelled bs + d := by
  simp [spelled, digitByte_toNat h]

theorem decDigits_of_lt {v : Nat} (n : Nat) (h : v < 10) : decDigits (n + 1) v = [digitByte v] :=
  if_pos h

theorem decDigits_of_ge {v : Nat} (n : Nat) (h : ¬ v < 10) :
    decDigits (n + 1) v = decDigits n (v / 10) ++ [digitByte (v % 10)] :=
  if_neg h

/-- Enough digits spell the number: each one is the remainder by 10 of what the ones before it spell. -/
theorem spelled_decDigits (n : Nat) : ∀ v < 10 ^ n, spelled (decDigits n v) = v := by
  induction n with
  | zero =>
    intro v hv
    exact (Nat.lt_one_iff.1 hv).symm
  | succ n ih =>
    intro v hv
    by_cases hs : v < 10
    · rw [decDigits_of_lt n hs]
      exact (spelled_append_digit [] hs).trans (Nat.zero_add v)
    · have hdiv : v / 10 < 10 ^ n := by rw [Nat.pow_succ] at hv; omega
      rw [decDigits_of_ge n hs, spelled_append_digit _ (Nat.mod_lt v (by omega)), ih _ hdiv]
      exact Nat.div_add_mod v 10

theorem isDigit_of_mem_decDigits (n : Nat) : ∀ v, ∀ b ∈ decDigits n v, isDigit b = true := by
  induction n with
  | zero => exact fun v b hb => nomatch hb
  | succ n ih =>
    intro v b hb
    by_cases hs : v < 10
    · rw [decDigits_of_lt n hs] at hb
      rw [List.mem_singleton.1 hb]
      exact isDigit_digitByte hs
    · rw [decDigits_of_ge n hs] at hb
      obtain hb | hb := List.mem_append.1 hb
      · exact ih _ b hb
      · rw [List.mem_singleton.1 hb]
        exact isDigit_digitByte (Nat.mod_lt v (by omega))

/-- Where there are enough digits, the first of a positive number is not 0. -/
theorem decDigits_leading (n : Nat) : ∀ v < 10 ^ n, v ≠ 0 →
    ∃ d bs, 0 < d ∧ d < 10 ∧ decDigits n v = digitByte d :: bs := by
  induction n with
  | zero => exact fun v hv h0 => absurd (Nat.lt_one_iff.1 hv) h0
  | succ n ih =>
    intro v hv h0
    by_cases hs : v < 10
    · exact ⟨v, [], Nat.pos_of_ne_zero h0, hs, decDigits_of_lt n hs⟩
    · have hdiv : v / 10 < 10 ^ n := by rw [Nat.pow_succ] at hv; omega
      obtain ⟨d, bs, hpos, hd, he⟩ := ih (v / 10) hdiv (by omega)
      refine ⟨d, bs ++ [digitByte (v % 10)], hpos, hd, ?_⟩
      rw [decDigits_of_ge n hs, he, List.cons_append]

/-- Settles O12: the three facts about the digits of a number, at ten digits. -/
theorem decSpellsTheNumber : Obligations.DecSpellsTheNumber := by
  refine ⟨decDigits_of_lt 9 (by omega), fun v hv =>
    ⟨spelled_decDigits 10 v hv, isDigit_of_mem_decDigits 10 v, dec_ne_nil v, fun h0 hh => ?_⟩⟩
  obtain ⟨d, bs, hpos, hd, he⟩ := decDigits_leading 10 v hv h0
  rw [dec, he, List.head?_cons, Option.some_inj] at hh
  have hz : 0x30 + d = 0x30 := by rw [← digitByte_toNat hd, hh]; rfl
  omega

/-! ### The ADC poll (R175) -/

theorem poll_adc {s : State} (h : s.seq.opw = .adc) : poll s = pollAdc s := by
  rw [poll, h]

theorem adcResult_done {s : State} {r : Word16} (h : s.env.adc = .done r) : adcResult s = some r := by
  rw [adcResult, h]

theorem adcResult_of_not_done {s : State} (h : ∀ r, s.env.adc ≠ .done r) : adcResult s = none := by
  unfold adcResult
  split
  next r hd => exact absurd hd (h r)
  next => rfl
  next => rfl

theorem pollAdc_done {s : State} {r : Word16} (h : s.env.adc = .done r) :
    pollAdc s = .next (emitBytes (dec r.toNat ++ s.cfg.eol.bytes) s) := by
  rw [pollAdc, adcResult_done h]

theorem pollAdc_of_not_done {s : State} (h : ∀ r, s.env.adc ≠ .done r) : pollAdc s = .next s := by
  rw [pollAdc, adcResult_of_not_done h]

/-! ### The TX poll (R123) -/

/-- One byte is sent and the rest stays queued. -/
def sendByte (b : Byte) (bs : List Byte) (s : State) : State :=
  (emit (.txPush b) s).withSeq { s.seq with outq := bs }

theorem poll_tx {s : State} (h : s.seq.opw = .tx) : poll s = pollTx s := by
  rw [poll, h]

section TxPoll

variable {s : State} {b : Byte} {bs : List Byte}

theorem pollTx_not_ready (hq : s.seq.outq = b :: bs) (hr : s.env.txReady = false) : pollTx s = .next s := by
  simp [pollTx, hq, hr]

theorem pollTx_more (hq : s.seq.outq = b :: bs) (hr : s.env.txReady = true) (hb : bs ≠ []) :
    pollTx s = .next (sendByte b bs s) := by
  simp [pollTx, hq, hr, hb, sendByte]

theorem pollTx_last (hq : s.seq.outq = [b]) (hr : s.env.txReady = true) :
    pollTx s = .next (complete (sendByte b [] s)) := by
  simp [pollTx, hq, hr, sendByte]

end TxPoll

/-- Settles O25: the ADC poll by the converter's state, the TX poll by tx_ready and what is left to send. -/
theorem outputPollsSendEveryByte : Obligations.OutputPollsSendEveryByte := by
  refine fun s => ⟨fun hw hd => ?converting, fun r hw hd => ?converted, fun b bs hw hq =>
    ⟨fun hr => ?notReady, fun hr hb => ?more, fun hr hb => ?last⟩⟩
  case converting => exact (poll_adc hw).trans (pollAdc_of_not_done hd)
  case converted => exact (poll_adc hw).trans (pollAdc_done hd)
  case notReady => exact (poll_tx hw).trans (pollTx_not_ready hq hr)
  case more => exact (poll_tx hw).trans (pollTx_more hq hr hb)
  case last => subst hb; exact (poll_tx hw).trans (pollTx_last hq hr)

end Sys2Proof.Machine
end

section
/-! PROOFS. The timer arbiter over many ticks (41_timing_engine.md R131–R142): each channel by what one tick does to
it, and `ticks_induct` once for the number of ticks. -/

namespace Sys2Proof.Machine

/-! ### Many ticks (R131) -/

/-- What holds before the first tick, and is carried over each, holds after n ticks. -/
theorem ticks_induct {P : Nat → State → Prop} {s : State} (h0 : P 0 s)
    (hs : ∀ k u, P k u → P (k + 1) (tick u)) (n : Nat) : P n (ticks n s) := by
  induction n generalizing s P with
  | zero => exact h0
  | succ n ih => exact ih (P := fun k => P (k + 1)) (hs 0 s h0) fun k => hs (k + 1)

@[simp] theorem ticks_cfg (n : Nat) (s : State) : (ticks n s).cfg = s.cfg :=
  ticks_induct (P := fun _ u => u.cfg = s.cfg) rfl (fun _ u hu => (tick_cfg u).trans hu) n

/-- Channel C's divider writes SVC_CNT alone (R132). -/
theorem Timer.tickService_svcCnt_only (q : Word16) (t : Timer) : ∃ c, t.tickService q = { t with svcCnt := c } := by
  unfold Timer.tickService
  split
  next => split <;> exact ⟨_, rfl⟩
  next => exact ⟨_, rfl⟩

/-! ### A counter that wraps at its period (R132, R133) -/

/-- A counter that stood at `start` has been counted k times, and has wrapped to 0 at its period `wraps` times. -/
structure Counted (start : Nat) (period : Word16) (k wraps : Nat) (c : Word16) : Prop where
  below : c.toNat < period.toNat
  total : start + k = c.toNat + period.toNat * wraps

section Counted

variable {start k wraps : Nat} {period c : Word16}

theorem Counted.zero (h : c.toNat < period.toNat) : Counted c.toNat period 0 0 c :=
  ⟨h, rfl⟩

theorem Counted.wrap (h : Counted start period k wraps c) (hm : meetsCompare c period = true) :
    Counted start period (k + 1) (wraps + 1) 0#16 where
  below := Nat.zero_lt_of_lt h.below
  total := by
    have hc := (meetsCompare_iff h.below).1 hm
    have ht := h.total
    show start + (k + 1) = 0 + period.toNat * (wraps + 1)
    rw [Nat.mul_succ]
    omega

theorem Counted.count (h : Counted start period k wraps c) (hm : ¬ meetsCompare c period = true) :
    Counted start period (k + 1) wraps (c + 1#16) := by
  rw [meetsCompare_iff h.below] at hm
  have hlt := h.below
  have ht := h.total
  have hp := period.isLt
  have hc : (c + 1#16).toNat = c.toNat + 1 := by bv_omega
  exact ⟨by omega, by omega⟩

theorem Counted.phase (h : Counted start period k wraps c) : c.toNat = (start + k) % period.toNat := by
  rw [h.total, Nat.add_mul_mod_self_left, Nat.mod_eq_of_lt h.below]

theorem Counted.wraps_eq (h : Counted start period k wraps c) : wraps = (start + k) / period.toNat := by
  rw [h.total, Nat.add_mul_div_left _ _ (Nat.zero_lt_of_lt h.below), Nat.div_eq_of_lt h.below, Nat.zero_add]

end Counted

/-! ### Channel A (R133) -/

/-- The time base k ticks after it stood at t₀, all of them in MS mode. -/
structure TimeBaseAfter (t₀ : Timer) (p : Word16) (k : Nat) (t : Timer) : Prop where
  mode : t.tmode = .ms
  compare : t.cmp = p
  advanced : ∃ wraps, Counted t₀.cnt.toNat p k wraps t.cnt ∧ t.msCount = t₀.msCount + BitVec.ofNat 32 wraps

theorem MsPhase.timeBaseAfter {p : Word16} {t : Timer} (h : MsPhase p t) : TimeBaseAfter t p 0 t :=
  ⟨h.mode, h.compare, 0, .zero h.phase, (BitVec.add_zero _).symm⟩

theorem TimeBaseAfter.tickShared {t₀ t : Timer} {p : Word16} {k : Nat} (h : TimeBaseAfter t₀ p k t) :
    TimeBaseAfter t₀ p (k + 1) t.tickShared := by
  obtain ⟨hm, hp, wraps, hc, hw⟩ := h
  simp only [Timer.tickShared, hm, Timer.tickMs, hp]
  split
  next hmeet => exact ⟨rfl, rfl, wraps + 1, hc.wrap hmeet, by rw [hw, BitVec.ofNat_add, BitVec.add_assoc]⟩
  next hmeet => exact ⟨rfl, rfl, wraps, hc.count hmeet, hw⟩

theorem TimeBaseAfter.tick {t₀ : Timer} {p : Word16} {k : Nat} {u : State} (h : TimeBaseAfter t₀ p k u.timer) :
    TimeBaseAfter t₀ p (k + 1) (tick u).timer := by
  obtain ⟨c, hc⟩ := Timer.tickService_svcCnt_only u.cfg.svcPeriod u.timer
  rw [tick_timer, hc]
  exact TimeBaseAfter.tickShared { h with }

/-- Settles O45: the phase is a counter that wraps at TICKS_PER_MS, and MS_COUNT counts its wraps. -/
theorem millisecondTickIsExact : Obligations.MillisecondTickIsExact := by
  intro s n h
  obtain ⟨hm, -, wraps, hc, hw⟩ := ticks_induct (P := fun k u => TimeBaseAfter s.timer s.cfg.ticksPerMs k u.timer)
    h.timeBaseAfter (fun _ _ => TimeBaseAfter.tick) n
  refine ⟨hm, hc.phase, ?_⟩
  rw [hw, BitVec.toNat_add, BitVec.toNat_ofNat, Nat.add_mod_mod, hc.wraps_eq]

/-! ### Channel B (R135, R136) -/

/-- In OS mode a tick writes CNT, OS_DONE and SVC_CNT alone in the timer (R135, R41). -/
theorem tick_timer_os {s : State} (h : s.timer.tmode = .os) : ∃ c d m, (tick s).timer =
    { s.timer with cnt := c, osDone := d, svcCnt := m } := by
  obtain ⟨m, hm⟩ := Timer.tickService_svcCnt_only s.cfg.svcPeriod s.timer
  rw [tick_timer, hm]
  simp only [Timer.tickShared, h, Timer.tickOs]
  split
  next => exact ⟨_, _, m, by rw [← h]⟩
  next => split <;> exact ⟨_, _, m, by rw [← h]⟩

/-- What stands still while the one-shot holds the counter (R135, R137). -/
structure TimeBaseHeld (t₀ t : Timer) : Prop where
  mode : t.tmode = .os
  phSave_kept : t.phSave = t₀.phSave
  msCount_kept : t.msCount = t₀.msCount
  msTarget_kept : t.msTarget = t₀.msTarget
  tick_kept : t.tick = t₀.tick

theorem TimeBaseHeld.tick {t₀ : Timer} {u : State} (h : TimeBaseHeld t₀ u.timer) : TimeBaseHeld t₀ (tick u).timer := by
  obtain ⟨_, _, _, ht⟩ := tick_timer_os h.mode
  rw [ht]
  exact { h with }

theorem ticks_timeBaseHeld {s : State} (h : s.timer.tmode = .os) (n : Nat) :
    TimeBaseHeld s.timer (ticks n s).timer :=
  ticks_induct (P := fun _ u => TimeBaseHeld s.timer u.timer) ⟨h, rfl, rfl, rfl, rfl⟩
    (fun _ _ => TimeBaseHeld.tick) n

/-- The one-shot k ticks after it was armed with w. -/
structure OneShotAfter (w : Word16) (k : Nat) (t : Timer) : Prop where
  mode : t.tmode = .os
  compare : t.cmp = w
  count : t.cnt.toNat = min k w.toNat
  matched : t.osDone = true ↔ w.toNat ≤ k

theorem Timer.arm_oneShotAfter {w : Word16} (hw : w ≠ 0#16) (t : Timer) : OneShotAfter w 0 (t.arm w) where
  mode := rfl
  compare := rfl
  count := (Nat.zero_min _).symm
  matched := iff_of_false Bool.false_ne_true fun hle => hw (BitVec.eq_of_toNat_eq (Nat.le_zero.1 hle))

theorem OneShotAfter.tickShared {w : Word16} {k : Nat} {t : Timer} (h : OneShotAfter w k t) :
    OneShotAfter w (k + 1) t.tickShared := by
  obtain ⟨hm, hc, hn, hd⟩ := h
  simp only [Timer.tickShared, hm, Timer.tickOs, hc]
  split
  next ho =>
    have hle : w.toNat ≤ k := hd.1 ho
    exact ⟨hm, hc, by omega, by rw [hd]; omega⟩
  next ho =>
    have hlt : k < w.toNat := Nat.lt_of_not_le fun hle => ho (hd.2 hle)
    have hmeet : meetsCompare t.cnt w = true ↔ t.cnt.toNat + 1 = w.toNat := meetsCompare_iff (by omega)
    split
    next hy =>
      rw [hmeet] at hy
      have hfull : w.toNat = min (k + 1) w.toNat := by omega
      exact ⟨rfl, rfl, hfull, iff_of_true rfl (by omega)⟩
    next hy =>
      rw [hmeet] at hy
      have hw := w.isLt
      have hcnt : (t.cnt + 1#16).toNat = t.cnt.toNat + 1 := by bv_omega
      exact ⟨rfl, rfl, hcnt.trans (by omega), iff_of_false ho (by omega)⟩

theorem OneShotAfter.tick {w : Word16} {k : Nat} {u : State} (h : OneShotAfter w k u.timer) :
    OneShotAfter w (k + 1) (tick u).timer := by
  obtain ⟨c, hc⟩ := Timer.tickService_svcCnt_only u.cfg.svcPeriod u.timer
  rw [tick_timer, hc]
  exact OneShotAfter.tickShared { h with }

/-- Settles O43: the one-shot counts up to its window and holds there, and the time base is not among what a tick
writes in OS mode. -/
theorem oneShotMatchesAfterItsWindow : Obligations.OneShotMatchesAfterItsWindow := by
  intro w s n hw
  obtain ⟨hm, hc, hn, hd⟩ := ticks_induct (P := fun k u => OneShotAfter w k u.timer) (s := armOneshot w s)
    (s.timer.arm_oneShotAfter hw) (fun _ _ => OneShotAfter.tick) n
  have hh := ticks_timeBaseHeld (s := armOneshot w s) rfl n
  exact ⟨hm, hn, hd, hc, hh.msCount_kept, hh.tick_kept⟩

/-- Settles O44: the arm saves the phase in PH_SAVE, no tick in OS mode writes it or the time base, and the restore
takes the phase back from it. -/
theorem timeBasePausesDuringTheOneShot : Obligations.TimeBasePausesDuringTheOneShot := by
  intro w s n h
  have hh := ticks_timeBaseHeld (s := armOneshot w s) rfl n
  exact ⟨rfl, hh.phSave_kept.trans (Timer.arm_phSave_ms w h), congrArg Params.ticksPerMs (ticks_cfg n _), rfl,
    hh.msCount_kept, hh.msTarget_kept, hh.tick_kept⟩

/-! ### Channel C (R132, R138–R140) -/

theorem Timer.serviceDue_iff {q : Word16} {t : Timer} :
    t.serviceDue q = true ↔ t.svcEn = true ∧ t.svcCnt + 1#16 = q := by
  simp [Timer.serviceDue, meetsCompare]

/-- A tick with no service event due leaves the sequencer as it was (R131). -/
theorem tick_seq_quiet {s : State} (h : s.timer.serviceDue s.cfg.svcPeriod = false) : (tick s).seq = s.seq := by
  simp [tick_seq, h]

/-- The shared counter leaves channel C to its divider (R41, R131). -/
theorem tick_svcEn (s : State) : (tick s).timer.svcEn = s.timer.svcEn := by
  obtain ⟨c, hc⟩ := Timer.tickService_svcCnt_only s.cfg.svcPeriod s.timer
  rw [tick_timer, (Timer.tickShared_service _).2, hc]

theorem tick_svcCnt (s : State) : (tick s).timer.svcCnt = (s.timer.tickService s.cfg.svcPeriod).svcCnt := by
  rw [tick_timer, (Timer.tickShared_service _).1]

section ServiceOn

variable {s : State} (he : s.timer.svcEn = true)
include he

theorem tick_service_due (hm : meetsCompare s.timer.svcCnt s.cfg.svcPeriod = true) :
    (tick s).timer.svcCnt = 0#16 ∧ strobes (tick s).env.trace = strobes s.env.trace + 1 := by
  have hdue : s.timer.serviceDue s.cfg.svcPeriod = true := by simp [Timer.serviceDue, he, hm]
  rw [tick_svcCnt, tick_env_service hdue]
  exact ⟨by simp [Timer.tickService, he, hm], by simp [strobes]⟩

theorem tick_service_counts (hm : ¬ meetsCompare s.timer.svcCnt s.cfg.svcPeriod = true) :
    (tick s).timer.svcCnt = s.timer.svcCnt + 1#16 ∧ (tick s).env = s.env := by
  have hdue : s.timer.serviceDue s.cfg.svcPeriod = false := by simp [Timer.serviceDue, hm]
  rw [tick_svcCnt, tick_env_quiet hdue]
  exact ⟨by simp [Timer.tickService, he, hm], rfl⟩

end ServiceOn

/-- Channel C k ticks after s, on in all of them: one strobe for each wrap of the divider. -/
structure ServiceAfter (s : State) (k : Nat) (u : State) : Prop where
  on : u.timer.svcEn = true
  params : u.cfg = s.cfg
  counted : ∃ wraps, Counted s.timer.svcCnt.toNat s.cfg.svcPeriod k wraps u.timer.svcCnt ∧
    strobes u.env.trace = strobes s.env.trace + wraps

theorem ServiceAfter.tick {s u : State} {k : Nat} (h : ServiceAfter s k u) : ServiceAfter s (k + 1) (tick u) := by
  obtain ⟨he, hcfg, wraps, hc, hs⟩ := h
  refine ⟨(tick_svcEn u).trans he, (tick_cfg u).trans hcfg, ?_⟩
  rw [← hcfg] at hc ⊢
  by_cases hm : meetsCompare u.timer.svcCnt u.cfg.svcPeriod = true
  · obtain ⟨hz, hstrobe⟩ := tick_service_due he hm
    rw [hz, hstrobe, hs]
    exact ⟨wraps + 1, hc.wrap hm, Nat.add_assoc _ _ _⟩
  · obtain ⟨hcount, henv⟩ := tick_service_counts he hm
    rw [hcount, henv]
    exact ⟨wraps, hc.count hm, hs⟩

/-- What a tick leaves alone while channel C is off (R140). -/
structure ServiceSuspended (s u : State) : Prop where
  off : u.timer.svcEn = false
  seq_kept : u.seq = s.seq
  env_kept : u.env = s.env
  svcCnt_kept : u.timer.svcCnt = s.timer.svcCnt

theorem ServiceSuspended.tick {s u : State} (h : ServiceSuspended s u) : ServiceSuspended s (tick u) := by
  obtain ⟨he, hq, henv, hc⟩ := h
  have hdue : u.timer.serviceDue u.cfg.svcPeriod = false := by simp [Timer.serviceDue, he]
  have hheld : (Machine.tick u).timer.svcCnt = u.timer.svcCnt := by simp [tick_svcCnt, Timer.tickService, he]
  exact ⟨(tick_svcEn u).trans he, (tick_seq_quiet hdue).trans hq, (tick_env_quiet hdue).trans henv, hheld.trans hc⟩

theorem ticks_suspended {s : State} (h : s.timer.svcEn = false) (n : Nat) : ServiceSuspended s (ticks n s) :=
  ticks_induct (P := fun _ => ServiceSuspended s) ⟨h, rfl, rfl, rfl⟩ (fun _ _ => ServiceSuspended.tick) n

/-- Settles O47: the divider is a counter that wraps at SVC_PERIOD_TICKS, with a strobe at each wrap while channel C
is on, and is held with no event while it is off. -/
theorem serviceEventsComeEveryPeriod : Obligations.ServiceEventsComeEveryPeriod := by
  refine fun s n h => ⟨fun he => ?on, fun he => ?off⟩
  case on =>
    obtain ⟨-, -, wraps, hc, hs⟩ := ticks_induct (P := ServiceAfter s) ⟨he, rfl, 0, .zero h, rfl⟩
      (fun _ _ => ServiceAfter.tick) n
    exact ⟨hc.phase, hc.wraps_eq ▸ hs⟩
  case off =>
    have hk := ticks_suspended he n
    exact ⟨hk.svcCnt_kept, by rw [hk.env_kept]⟩

/-! ### The service event and DelayUs (R138–R140) -/

theorem serviceEvent_watching {s : State} (h : s.seq.watchQuit = true) : serviceEvent s = { s with
    seq := { s.seq with cancel := s.seq.cancel || s.env.rxq.contains s.cfg.quitByte }
    env := { s.env with rxq := [], trace := s.env.trace ++ [.service] } } :=
  State.ext_groups (by simp [serviceEvent_seq, h]) (by simp) (by simp) (by simp [serviceEvent_env, h]) (by simp)
    (by simp)

theorem serviceEvent_unwatched {s : State} (h : s.seq.watchQuit = false) : serviceEvent s = { s with
    env := { s.env with trace := s.env.trace ++ [.service] } } :=
  if_neg (by simp [h])

/-- What a due tick writes in the sequencer and the environment is its service event (R131, R132). -/
theorem tick_of_due {s : State} (h : s.timer.serviceDue s.cfg.svcPeriod = true) :
    (tick s).seq = (serviceEvent s).seq ∧ (tick s).env = (serviceEvent s).env := by
  rw [tick_seq, tick_env_service h, serviceEvent_seq, serviceEvent_env, h, Bool.true_and]
  exact ⟨rfl, rfl⟩

theorem step_of_tick_unpolled {s : State} (h : nextMove s = .tick) (hp : pollFirst s = false) :
    step s = .next (oweWhileWaiting (tick (consume s))) := by
  rw [step, if_neg (by simp [hp]), h]
  rfl

/-- Settles O48: the service event by WATCH_QUIT, and the tick's step by whether one is due. -/
theorem serviceEventDrainsForTheQuitByte : Obligations.ServiceEventDrainsForTheQuitByte := by
  refine fun s => ⟨serviceEvent_watching, serviceEvent_unwatched, fun hn hp =>
    ⟨_, step_of_tick_unpolled hn hp, rfl, fun he hc hw => ?watching, fun he hc hw => ?unwatched, fun hno => ?quiet⟩⟩
  case watching =>
    obtain ⟨hseq, henv⟩ := tick_of_due (s := consume s) (Timer.serviceDue_iff.2 ⟨he, hc⟩)
    rw [serviceEvent_watching (s := consume s) hw] at hseq henv
    exact ⟨hseq, henv⟩
  case unwatched =>
    obtain ⟨hseq, henv⟩ := tick_of_due (s := consume s) (Timer.serviceDue_iff.2 ⟨he, hc⟩)
    rw [serviceEvent_unwatched (s := consume s) hw] at hseq henv
    exact ⟨hseq, henv⟩
  case quiet =>
    have hdue : s.timer.serviceDue s.cfg.svcPeriod = false := by
      rw [Bool.eq_false_iff, ne_eq, Timer.serviceDue_iff]
      rintro ⟨he, hc⟩
      exact hno.elim (by simp [he]) fun hne => hne hc
    exact ⟨tick_seq_quiet (s := consume s) hdue, tick_env_quiet (s := consume s) hdue⟩

theorem exec_delayUs_of_ne_zero {v : Word16} (hv : v ≠ 0#16) (s : State) :
    exec (.delayUs v) s = .next (enterWait .dus (armOneshot v (setSvcEn false s))) :=
  if_neg hv

/-- Settles O49: the dispatch turns channel C off (R154) and leaves the environment and SVC_CNT, and with channel C
off no tick makes a service event. -/
theorem delayUsSuspendsTheWatch : Obligations.DelayUsSuspendsTheWatch := by
  intro v s t n hv h
  cases next_inj.1 ((exec_delayUs_of_ne_zero hv s).symm.trans h)
  obtain ⟨-, hseq, henv, hcnt⟩ := ticks_suspended (s := enterWait .dus (armOneshot v (setSvcEn false s))) rfl n
  exact ⟨hseq, henv, hcnt⟩

end Sys2Proof.Machine
end

section
/-! PROOFS. The wait opcodes (42_wait_ops.md): their dispatch parts (R145–R151), and the LEVEL and SETTLE polls by
CANCEL, the sampled pin and OS_DONE (R143, R144). -/

namespace Sys2Proof.Machine

/-! ### Sampling a pin (R12, R70) -/

theorem pinRead_of_missing {p : Byte} {s : State} (h : s.cfg.pins.length ≤ p.toNat) : pinRead p s = none :=
  if_neg fun hp => Nat.not_lt.2 h (hasPin_iff.1 hp)

theorem withPinLevel_of_pin {p : Byte} {s : State} (h : p.toNat < s.cfg.pins.length) (k : Bool → State) :
    withPinLevel p s k = .next (k (s.env.levels[p.toNat]'p.isLt)) := by
  rw [withPinLevel, pinRead_of_hasPin (hasPin_iff.2 h)]

theorem withPinLevel_of_missing {p : Byte} {s : State} (h : s.cfg.pins.length ≤ p.toNat) (k : Bool → State) :
    withPinLevel p s k = .fault (.noSuchPin p) := by
  rw [withPinLevel, pinRead_of_missing h]

/-! ### The dispatch parts (R143, R145–R151) -/

/-- A debounced wait settles only if there is a window to settle for (R143). -/
theorem startWait_debounced (level : Bool) (s : State) : startWait level true s = { s with
    seq := { s.seq with lvl := level, deb := decide (s.seq.wt ≠ 0#16), opw := .level, fsm := .opWait } } :=
  rfl

theorem startWait_raw (level : Bool) (s : State) : startWait level false s = { s with
    seq := { s.seq with lvl := level, deb := false, opw := .level, fsm := .opWait } } :=
  rfl

/-- Settles O5: each of the four starts the wait for its own level, debounced or raw. -/
theorem levelWaitsStart : Obligations.LevelWaitsStart :=
  fun _ s => ⟨next_inj.2 (startWait_debounced true s), next_inj.2 (startWait_debounced false s),
    next_inj.2 (startWait_raw true s), next_inj.2 (startWait_raw false s)⟩

/-- Settles O6: both opcodes start a wait for the complement of the level they sample, if there is a pin to
sample. -/
theorem changeWaitsTargetTheOtherLevel : Obligations.ChangeWaitsTargetTheOtherLevel :=
  fun _ s => ⟨
    fun hp => ⟨(withPinLevel_of_pin hp _).trans (next_inj.2 (startWait_debounced _ s)),
      (withPinLevel_of_pin hp _).trans (next_inj.2 (startWait_raw _ s))⟩,
    fun hp => ⟨withPinLevel_of_missing hp _, withPinLevel_of_missing hp _⟩⟩

/-- Settles O7: the dispatch part has no branch, so it is its own equation. -/
theorem setWaitTimeWritesTheWindow : Obligations.SetWaitTimeWritesTheWindow :=
  fun _ _ => rfl

/-! ### A poll that tests CANCEL and then samples the pin of IR (R144) -/

section CancelOrSample

variable {s : State} (t : State) (k : Bool → State)

theorem cancelOrSample_missing (hc : s.seq.cancel = false) (hp : s.cfg.pins.length ≤ (irPin s).toNat) :
    (if s.seq.cancel then .next t else withPinLevel (irPin s) s k) = .fault (.noSuchPin (irPin s)) := by
  rw [if_neg (by simp [hc]), withPinLevel_of_missing hp]

theorem cancelOrSample_sampled (hc : s.seq.cancel = false) (hp : (irPin s).toNat < s.cfg.pins.length) :
    (if s.seq.cancel then .next t else withPinLevel (irPin s) s k) =
      .next (k (s.env.levels[(irPin s).toNat]'(irPin s).isLt)) := by
  rw [if_neg (by simp [hc]), withPinLevel_of_pin hp]

end CancelOrSample

/-! ### The LEVEL and SETTLE polls (R143) -/

/-- Arming while channel A owns the counter saves its phase (R136). -/
theorem Timer.arm_of_ms {t : Timer} (w : Word16) (h : t.tmode = .ms) : t.arm w =
    { t with tmode := .os, cnt := 0#16, cmp := w, osDone := false, phSave := t.cnt } := by
  rw [Timer.arm, h]

section SampledPolls

variable {s : State} {level : Bool}

theorem poll_level (h : s.seq.opw = .level) :
    poll s = if s.seq.cancel then .next (complete s) else withPinLevel (irPin s) s (levelSampled s) := by
  rw [poll, h]
  rfl

theorem poll_settle (h : s.seq.opw = .settle) :
    poll s = if s.seq.cancel then .next (complete (restore s)) else withPinLevel (irPin s) s (settleSampled s) := by
  rw [poll, h]
  rfl

theorem levelSampled_of_ne (hl : level ≠ s.seq.lvl) : levelSampled s level = s :=
  if_neg hl

theorem levelSampled_raw (hl : level = s.seq.lvl) (hd : s.seq.deb = false) :
    levelSampled s level = complete s := by
  rw [levelSampled, if_pos hl, if_neg (by simp [hd])]

theorem levelSampled_debounced (hl : level = s.seq.lvl) (hd : s.seq.deb = true) (hm : s.timer.tmode = .ms) :
    levelSampled s level = { s with
      seq := { s.seq with opw := .settle }
      timer := { s.timer with
        tmode := .os, cnt := 0#16, cmp := s.seq.wt, osDone := false, phSave := s.timer.cnt } } := by
  rw [levelSampled, if_pos hl, if_pos hd, ← Timer.arm_of_ms s.seq.wt hm]
  rfl

theorem settleSampled_of_ne (hl : level ≠ s.seq.lvl) : settleSampled s level = { s with
    seq := { s.seq with opw := .level }
    timer := { s.timer with
      tmode := .ms, cnt := s.timer.phSave, cmp := s.cfg.ticksPerMs, osDone := false } } :=
  if_neg hl

theorem settleSampled_open (hl : level = s.seq.lvl) (ho : s.timer.osDone = false) :
    settleSampled s level = s := by
  rw [settleSampled, if_pos hl, if_neg (by simp [ho])]

theorem settleSampled_held (hl : level = s.seq.lvl) (ho : s.timer.osDone = true) :
    settleSampled s level = complete (restore s) := by
  rw [settleSampled, if_pos hl, if_pos ho]

end SampledPolls

/-- Settles O22: CANCEL and a missing pin end either poll alike; otherwise the poll goes on with the sampled level,
and what it then does is a case of its own. -/
theorem waitPollsHoldTheLevel : Obligations.WaitPollsHoldTheLevel := by
  intro s
  refine ⟨fun hw hc => ?cancelledLevel, fun hw hc => ?cancelledSettle, fun hw hc hp => ?missing,
    fun hc hp => ?sampled⟩
  case cancelledLevel => exact (poll_level hw).trans (if_pos hc)
  case cancelledSettle => exact (poll_settle hw).trans (if_pos hc)
  case missing =>
    obtain hw | hw := hw
    · exact (poll_level hw).trans (cancelOrSample_missing _ _ hc hp)
    · exact (poll_settle hw).trans (cancelOrSample_missing _ _ hc hp)
  case sampled =>
    intro level
    have hlevel (hw : s.seq.opw = .level) : poll s = .next (levelSampled s level) :=
      (poll_level hw).trans (cancelOrSample_sampled _ _ hc hp)
    have hsettle (hw : s.seq.opw = .settle) : poll s = .next (settleSampled s level) :=
      (poll_settle hw).trans (cancelOrSample_sampled _ _ hc hp)
    exact ⟨
      fun hw hl => (hlevel hw).trans (next_inj.2 (levelSampled_of_ne hl)),
      fun hw hl hd => (hlevel hw).trans (next_inj.2 (levelSampled_raw hl hd)),
      fun hw hl hd hm => (hlevel hw).trans (next_inj.2 (levelSampled_debounced hl hd hm)),
      fun hw hl => (hsettle hw).trans (next_inj.2 (settleSampled_of_ne hl)),
      fun hw hl ho => (hsettle hw).trans (next_inj.2 (settleSampled_open hl ho)),
      fun hw hl ho => (hsettle hw).trans (next_inj.2 (settleSampled_held hl ho))⟩

end Sys2Proof.Machine
end

section
/-! PROOFS. The delay and elapsed-time opcodes (43_delay_timer_ops.md): their dispatch parts (R153–R156), their polls
by the flag each waits for, and the length of a DelayMs in ticks (R157). -/

namespace Sys2Proof.Machine

/-! ### The dispatch parts (R153–R155) -/

theorem delayTarget_eq_ofNat (c : Word32) (v : Word16) : delayTarget c v = BitVec.ofNat 32 (c.toNat + v.toNat + 1) := by
  apply BitVec.eq_of_toNat_eq
  simp [delayTarget]

/-- Settles O8: the dispatch part has no branch, and its target is the sum modulo 2^32. -/
theorem delayMsSetsItsTarget : Obligations.DelayMsSetsItsTarget := by
  intro v s
  rw [← delayTarget_eq_ofNat]
  rfl

/-- Arming while channel B owns the counter keeps the phase saved before (R136). -/
theorem Timer.arm_of_os {t : Timer} (w : Word16) (h : t.tmode = .os) : t.arm w =
    { t with cnt := 0#16, cmp := w, osDone := false } := by
  rw [Timer.arm, h]

/-- Settles O9: zero ticks arm nothing; otherwise the arm saves the phase or keeps the saved one, by TMODE. -/
theorem delayUsArmsTheOneShot : Obligations.DelayUsArmsTheOneShot := by
  refine fun v s => ⟨fun hv => ?zero, fun hv hm => ?fromMs, fun hv hm => ?fromOs⟩
  case zero => exact if_pos hv
  case fromMs =>
    rw [exec_delayUs_of_ne_zero hv, armOneshot, Timer.arm_of_ms (t := (setSvcEn false s).timer) v hm]
    rfl
  case fromOs =>
    rw [exec_delayUs_of_ne_zero hv, armOneshot, Timer.arm_of_os (t := (setSvcEn false s).timer) v hm]
    rfl

/-- Settles O10: the dispatch part has no branch, so it is its own equation. -/
theorem timerBeginTakesTheSnapshot : Obligations.TimerBeginTakesTheSnapshot :=
  fun _ => rfl

/-! ### TimerEnd (R156) -/

/-- The report is the integer difference of the two instants, modulo 2^32 (R156). -/
theorem elapsedUs_toNat (q : Nat) (c b : Word32) (n p : Word16) : ((elapsedUs q c n b p).toNat : Int) =
    (((c.toNat : Int) - b.toNat) * 1000 + (n.toNat / q : Nat) - (p.toNat / q : Nat)) % 2 ^ 32 := by
  simp only [elapsedUs, BitVec.toNat_sub, BitVec.toNat_add, BitVec.toNat_mul, BitVec.toNat_ofNat]
  omega

/-- Settles O11: the digits sent are those of `elapsedUs`, and emitting them leaves the snapshot. -/
theorem timerEndReportsElapsedMicroseconds : Obligations.TimerEndReportsElapsedMicroseconds :=
  fun s => ⟨(elapsedUs s.cfg.ticksPerUs s.timer.msCount s.timer.cnt s.seq.tbMs s.seq.tbPh).toNat,
    elapsedUs_toNat _ _ _ _ _, rfl⟩

/-! ### The polls (R153, R154) -/

section DelayPolls

variable {s : State}

theorem poll_dms (h : s.seq.opw = .dms) : poll s = pollDms s := by
  rw [poll, h]

theorem poll_dus (h : s.seq.opw = .dus) : poll s = pollDus s := by
  rw [poll, h]

theorem pollDms_ended (h : s.seq.cancel = true ∨ s.timer.tick = true) : pollDms s = .next (complete s) := by
  obtain hc | ht := h
  · exact if_pos hc
  · rw [pollDms, if_pos ht, ite_self]

theorem pollDms_waits (hc : s.seq.cancel = false) (ht : s.timer.tick = false) : pollDms s = .next s := by
  simp [pollDms, hc, ht]

theorem pollDus_waits (h : s.timer.osDone = false) : pollDus s = .next s := by
  simp [pollDus, h]

theorem pollDus_matched (h : s.timer.osDone = true) :
    pollDus s = .next (complete (setSvcEn true (restore s))) :=
  if_pos h

end DelayPolls

/-- Settles O24: each poll by the flags it tests, CANCEL and TICK in DMS and OS_DONE alone in DUS. -/
theorem delayPollsWaitForTheirFlag : Obligations.DelayPollsWaitForTheirFlag :=
  fun _ => ⟨
    fun hw h => (poll_dms hw).trans (pollDms_ended h),
    fun hw hc ht => (poll_dms hw).trans (pollDms_waits hc ht),
    fun hw h => (poll_dus hw).trans (pollDus_waits h),
    fun hw h => (poll_dus hw).trans (pollDus_matched h)⟩

/-! ### The length of a DelayMs (R134, R157) -/

theorem tickAfter_iff {tick : Bool} {c m : Word32} : tickAfter tick c m = true ↔ tick = true ∨ c = m := by
  simp [tickAfter]

theorem Timer.tickShared_msTarget (t : Timer) : t.tickShared.msTarget = t.msTarget := by
  unfold Timer.tickShared Timer.tickMs Timer.tickOs
  split
  next => split <;> rfl
  next =>
    split
    next => rfl
    next => split <;> rfl

/-- In MS mode TICK is written only where the phase meets its compare (R133, R134). -/
theorem Timer.tickShared_tick_of_ms {t : Timer} (h : t.tmode = .ms) : t.tickShared.tick =
    if meetsCompare t.cnt t.cmp then tickAfter t.tick (t.msCount + 1#32) t.msTarget else t.tick := by
  rw [Timer.tickShared, h, Timer.tickMs, apply_ite Timer.tick]

/-- Up to its target's own millisecond, MS_COUNT has not yet wrapped round to it (R153). -/
theorem msCount_meets_target {w : Nat} {v : Word16} (h : w ≤ v.toNat) (c : Word32) :
    c + BitVec.ofNat 32 w + 1#32 = delayTarget c v ↔ w = v.toNat := by
  have hv := v.isLt
  rw [delayTarget, BitVec.add_left_inj, BitVec.add_right_inj, ← BitVec.toNat_inj, BitVec.toNat_ofNat,
    BitVec.toNat_setWidth]
  omega

/-- The time base k ticks after a DelayMs of v was dispatched on t₀: TICK is set once v + 1 milliseconds have begun. -/
structure DelayAfter (t₀ : Timer) (p v : Word16) (k : Nat) (t : Timer) : Prop extends TimeBaseAfter t₀ p k t where
  target : t.msTarget = delayTarget t₀.msCount v
  ticked : t.tick = true ↔ v.toNat + 1 ≤ (t₀.cnt.toNat + k) / p.toNat

theorem MsPhase.delayAfter {p : Word16} {t : Timer} (h : MsPhase p t) (v : Word16) :
    DelayAfter t p v 0 { t with msTarget := delayTarget t.msCount v, tick := false } where
  toTimeBaseAfter := { h.timeBaseAfter with }
  target := rfl
  ticked := by simp [Nat.div_eq_of_lt h.phase]

theorem DelayAfter.tickShared {t₀ t : Timer} {p v : Word16} {k : Nat} (h : DelayAfter t₀ p v k t) :
    DelayAfter t₀ p v (k + 1) t.tickShared where
  toTimeBaseAfter := h.toTimeBaseAfter.tickShared
  target := t.tickShared_msTarget.trans h.target
  ticked := by
    obtain ⟨⟨hm, hp, wraps, hc, hw⟩, ht, hk⟩ := h
    rw [← hc.wraps_eq] at hk
    rw [Timer.tickShared_tick_of_ms hm, hp]
    split
    next hmeet =>
      rw [← (hc.wrap hmeet).wraps_eq, tickAfter_iff, hk, ht, hw]
      by_cases hle : wraps ≤ v.toNat
      · rw [msCount_meets_target hle]
        omega
      · omega
    next hmeet => rw [← (hc.count hmeet).wraps_eq, hk]

theorem DelayAfter.tick {t₀ : Timer} {p v : Word16} {k : Nat} {u : State} (h : DelayAfter t₀ p v k u.timer) :
    DelayAfter t₀ p v (k + 1) (tick u).timer := by
  obtain ⟨c, hc⟩ := Timer.tickService_svcCnt_only u.cfg.svcPeriod u.timer
  rw [tick_timer, hc]
  exact DelayAfter.tickShared { h with }

/-- Settles O46: TICK is set once the phase has wrapped v + 1 times, which is a bound on the ticks made; the phase at
the dispatch is below a millisecond, which bounds the delay on both sides. -/
theorem delayMsLastsToItsTick : Obligations.DelayMsLastsToItsTick := by
  intro v s t n h hexec
  have hstart : DelayAfter s.timer s.cfg.ticksPerMs v 0 t.timer := by
    cases next_inj.1 hexec
    exact h.delayAfter v
  have hd := ticks_induct (P := fun k u => DelayAfter s.timer s.cfg.ticksPerMs v k u.timer) hstart
    (fun _ _ => DelayAfter.tick) n
  have hphase := h.phase
  refine ⟨?ticked, ?longer, Nat.sub_le _ _⟩
  case ticked => exact hd.ticked.trans (by rw [Nat.le_div_iff_mul_le (Nat.zero_lt_of_lt hphase), Nat.sub_le_iff_le_add'])
  case longer =>
    rw [Nat.succ_mul]
    omega

end Sys2Proof.Machine
end

section
/-! PROOFS. The pin and analog opcodes (44_pin_ops.md): their dispatch parts by the pin's row of the Pin Table
(R170–R175), and the RSETTLE poll by CANCEL, the sampled pin and OS_DONE (R174). -/

namespace Sys2Proof.Machine

/-! ### The Pin Table (R70, R97) -/

section PinTable

variable {c : Params} {p : Byte} {d : PinDesc}

theorem not_hasPin_of_missing (h : c.pins.length ≤ p.toNat) : ¬ c.hasPin p = true :=
  fun hp => Nat.not_lt.2 h (hasPin_iff.1 hp)

theorem hasPin_of_row (h : c.pins[p.toNat]? = some d) : c.hasPin p = true := by
  rw [Params.hasPin, h, Option.isSome_some]

theorem hasPwm_of_row (h : c.pins[p.toNat]? = some d) : c.hasPwm p = d.pwmMax.isSome := by
  rw [Params.hasPwm, h]

theorem hasAnalog_of_row (h : c.pins[p.toNat]? = some d) : c.hasAnalog p = d.analog := by
  rw [Params.hasAnalog, h]

end PinTable

/-! ### The output opcodes (R170–R173) -/

section Drives

variable {p : Byte} {s : State}

theorem drivePin_of_pin (h : p.toNat < s.cfg.pins.length) (m : PinMode) :
    drivePin p m s = .next (complete (emit (.pinDrive p m) s)) :=
  if_pos (hasPin_iff.2 h)

theorem drivePin_of_missing (h : s.cfg.pins.length ≤ p.toNat) (m : PinMode) :
    drivePin p m s = .fault (.noSuchPin p) :=
  if_neg (not_hasPin_of_missing h)

end Drives

/-- Settles O13: the pin's row decides, by whether it has a PWM_MAX; without a row the pin is missing. -/
theorem setPwmWritesTheDuty : Obligations.SetPwmWritesTheDuty := by
  refine fun p v s => ⟨fun d hd hm => ?pwm, fun d hd hm => ?noPwm, fun hp => ?missing⟩
  case pwm =>
    have hpwm : s.cfg.hasPwm p = true := (hasPwm_of_row hd).trans (Option.isSome_iff_ne_none.2 hm)
    exact (if_pos (hasPin_of_row hd)).trans (if_pos hpwm)
  case noPwm =>
    have hpwm : ¬ s.cfg.hasPwm p = true := by simp [hasPwm_of_row hd, hm]
    exact (if_pos (hasPin_of_row hd)).trans (if_neg hpwm)
  case missing => exact if_neg (not_hasPin_of_missing hp)

/-- Settles O14: the three opcodes are `drivePin` in their own mode. -/
theorem pinDrivesAreOutputEvents : Obligations.PinDrivesAreOutputEvents :=
  fun _ _ => ⟨
    fun hp => ⟨drivePin_of_pin hp .high, drivePin_of_pin hp .low, drivePin_of_pin hp .tristate⟩,
    fun hp => ⟨drivePin_of_missing hp .high, drivePin_of_missing hp .low, drivePin_of_missing hp .tristate⟩⟩

/-- Settles O16: the pin's row decides, by its analog channel; without a row the pin is missing. -/
theorem readAnalogStartsAConversion : Obligations.ReadAnalogStartsAConversion := by
  refine fun p s => ⟨fun d hd ha => ?analog, fun d hd ha => ?noAnalog, fun hp => ?missing⟩
  case analog =>
    have hanalog : s.cfg.hasAnalog p = true := (hasAnalog_of_row hd).trans ha
    exact (if_pos (hasPin_of_row hd)).trans (if_pos hanalog)
  case noAnalog =>
    have hanalog : ¬ s.cfg.hasAnalog p = true := by simp [hasAnalog_of_row hd, ha]
    exact (if_pos (hasPin_of_row hd)).trans (if_neg hanalog)
  case missing => exact if_neg (not_hasPin_of_missing hp)

/-! ### ReadDigital and its steady read (R174) -/

section SteadyRead

variable {s : State} {level : Bool}

/-- The window's first arm saves the phase of channel A (R136). -/
theorem armSteady_of_ms (level : Bool) (h : s.timer.tmode = .ms) : armSteady level s = { s with
    seq := { s.seq with lvl := level }
    timer := { s.timer with
      tmode := .os, cnt := 0#16, cmp := s.seq.wt, osDone := false, phSave := s.timer.cnt } } := by
  rw [← Timer.arm_of_ms s.seq.wt h]
  rfl

/-- Re-arming the window keeps the saved phase (R136). -/
theorem armSteady_of_os (level : Bool) (h : s.timer.tmode = .os) : armSteady level s = { s with
    seq := { s.seq with lvl := level }
    timer := { s.timer with cnt := 0#16, cmp := s.seq.wt, osDone := false } } := by
  rw [← Timer.arm_of_os s.seq.wt h]
  rfl

theorem exec_readDigital_single {p : Byte} (hp : p.toNat < s.cfg.pins.length) (hw : s.seq.wt = 0#16) :
    exec (.readDigital p) s = .next (emitLevel (s.env.levels[p.toNat]'p.isLt) s) :=
  (withPinLevel_of_pin hp _).trans (next_inj.2 (if_pos hw))

theorem exec_readDigital_steady {p : Byte} (hp : p.toNat < s.cfg.pins.length) (hw : s.seq.wt ≠ 0#16) :
    exec (.readDigital p) s = .next (enterWait .rsettle (armSteady (s.env.levels[p.toNat]'p.isLt) s)) :=
  (withPinLevel_of_pin hp _).trans (next_inj.2 (if_neg hw))

theorem poll_rsettle (h : s.seq.opw = .rsettle) :
    poll s = if s.seq.cancel then .next (complete (restore s)) else withPinLevel (irPin s) s (rsettleSampled s) := by
  rw [poll, h]
  rfl

theorem rsettleSampled_of_ne (hl : level ≠ s.seq.lvl) : rsettleSampled s level = armSteady level s :=
  if_neg hl

theorem rsettleSampled_open (hl : level = s.seq.lvl) (ho : s.timer.osDone = false) :
    rsettleSampled s level = s := by
  rw [rsettleSampled, if_pos hl, if_neg (by simp [ho])]

theorem rsettleSampled_held (hl : level = s.seq.lvl) (ho : s.timer.osDone = true) :
    rsettleSampled s level = emitLevel s.seq.lvl (restore s) := by
  rw [rsettleSampled, if_pos hl, if_pos ho]

end SteadyRead

/-- Settles O15: WT decides between the single sample and the steady read, whose arm is by TMODE. -/
theorem readDigitalSamplesThePin : Obligations.ReadDigitalSamplesThePin := by
  refine fun p s => ⟨fun hp hw => ?single, fun hp hw hm => ?fromMs, fun hp hw hm => ?fromOs, fun hp => ?missing⟩
  case single => exact exec_readDigital_single hp hw
  case fromMs =>
    rw [exec_readDigital_steady hp hw, armSteady_of_ms _ hm]
    rfl
  case fromOs =>
    rw [exec_readDigital_steady hp hw, armSteady_of_os _ hm]
    rfl
  case missing => exact withPinLevel_of_missing hp _

/-- Settles O23: CANCEL and a missing pin end the poll; otherwise it goes on with the sampled level, and what it then
does is a case of its own. -/
theorem steadyReadReArmsOnEveryChange : Obligations.SteadyReadReArmsOnEveryChange := by
  refine fun s hw => ⟨fun hc => ?cancelled, fun hc hp => ?missing, fun hc hp => ?sampled⟩
  case cancelled => exact (poll_rsettle hw).trans (if_pos hc)
  case missing => exact (poll_rsettle hw).trans (cancelOrSample_missing _ _ hc hp)
  case sampled =>
    intro level
    have hpoll : poll s = .next (rsettleSampled s level) :=
      (poll_rsettle hw).trans (cancelOrSample_sampled _ _ hc hp)
    exact ⟨
      fun hl hm => hpoll.trans (next_inj.2 ((rsettleSampled_of_ne hl).trans (armSteady_of_os level hm))),
      fun hl ho => hpoll.trans (next_inj.2 (rsettleSampled_open hl ho)),
      fun hl ho => hpoll.trans (next_inj.2 (rsettleSampled_held hl ho))⟩

end Sys2Proof.Machine
end

section
/-! PROOFS. The byte opcodes (45_char_ops.md; 46_control_ops.md R190): the dispatch parts of CharTransmit, CharReceive
and CharGoto, and the CR poll by CANCEL and RXQ (R181). -/

namespace Sys2Proof.Machine

/-! ### The dispatch parts (R180, R181, R190) -/

/-- Settles O17: the dispatch is `emitBytes` of the one byte. -/
theorem charTransmitSendsTheByteRaw : Obligations.CharTransmitSendsTheByteRaw :=
  fun _ _ => rfl

/-- Settles O18: both dispatches are `enterWait` after `setWatch false`, each with its own wait. -/
theorem byteWaitsStopTheWatch : Obligations.ByteWaitsStopTheWatch :=
  fun _ => ⟨rfl, rfl⟩

/-! ### Taking a byte (R9, R181) -/

theorem dropRx_of_cons {s : State} {b : Byte} {bs : List Byte} (hq : s.env.rxq = b :: bs) :
    dropRx s = s.withEnv { s.env with rxq := bs } := by
  rw [dropRx, hq, List.tail_cons]

/-- Where CANCEL was clear, the byte alone decides it. -/
theorem noteQuit_of_not_cancelled {s : State} (hc : s.seq.cancel = false) (b : Byte) :
    noteQuit b s = s.withSeq { s.seq with cancel := decide (b = s.cfg.quitByte) } := by
  rw [noteQuit, cancelAfter, hc, Bool.false_or]

/-! ### The CR poll (R181) -/

section CrPoll

variable {s : State}

theorem poll_cr (h : s.seq.opw = .cr) : poll s = pollCr s := by
  rw [poll, h]

theorem pollCr_cancelled (hc : s.seq.cancel = true) : pollCr s = .next (complete (setWatch true s)) :=
  if_pos hc

theorem pollCr_waits (hc : s.seq.cancel = false) (hq : s.env.rxq = []) : pollCr s = .next s := by
  simp [pollCr, hc, hq]

theorem pollCr_takes {b : Byte} {bs : List Byte} (hc : s.seq.cancel = false) (hq : s.env.rxq = b :: bs) :
    pollCr s = .next (complete (noteQuit b (setWatch true (dropRx s)))) := by
  simp [pollCr, hc, hq]

end CrPoll

/-- Settles O26: the poll by CANCEL and RXQ; with CANCEL clear, the byte taken alone decides it. -/
theorem charReceiveTakesOneByte : Obligations.CharReceiveTakesOneByte := by
  refine fun s hw => ⟨fun hc => ?cancelled, fun hc hq => ?waits, fun b bs hc hq => ?taken⟩
  case cancelled => exact (poll_cr hw).trans (pollCr_cancelled hc)
  case waits => exact (poll_cr hw).trans (pollCr_waits hc hq)
  case taken =>
    have hpoll : poll s = .next (complete (noteQuit b (setWatch true (dropRx s)))) :=
      (poll_cr hw).trans (pollCr_takes hc hq)
    rw [hpoll, noteQuit_of_not_cancelled (s := setWatch true (dropRx s)) hc, dropRx_of_cons hq]
    rfl

end Sys2Proof.Machine
end

section
/-! PROOFS. The control-flow opcodes (46_control_ops.md): how often a Loop jumps (R194), from one dispatch of it by
its slot (R191); the CG poll by CANCEL, RXQ and the byte taken (R190); Goto and Noop (R192, R193). -/

namespace Sys2Proof.Machine

/-! ### One Loop dispatch by its slot (R191) -/

theorem LoopSlot.activate_cur (l : LoopSlot) : l.activate.cur = if l.act then l.cur else l.init := by
  unfold LoopSlot.activate
  split <;> rfl

theorem LoopSlot.jumps_iff (l : LoopSlot) : l.jumps = true ↔ l.activate.cur ≠ 0#16 := decide_eq_true_iff

@[simp] theorem LoopSlot.activate_act (l : LoopSlot) : l.activate.act = true := by
  unfold LoopSlot.activate
  split
  next h => exact h
  next => rfl

/-- A dispatch that jumps uses one count of a slot it leaves active. -/
theorem LoopSlot.next_of_ne {l : LoopSlot} (h : l.activate.cur ≠ 0#16) :
    l.next = { init := l.init, cur := l.activate.cur - 1#16, act := true } := by
  rw [LoopSlot.next_jump ((LoopSlot.jumps_iff l).2 h)]
  simp

theorem LoopSlot.next_of_zero {l : LoopSlot} (h : l.activate.cur = 0#16) :
    l.next = { init := l.init, cur := 0#16, act := false } := by
  have hj : l.jumps = false := Bool.eq_false_iff.2 fun hj => (LoopSlot.jumps_iff l).1 hj h
  rw [LoopSlot.next_fall hj, ← h]
  simp

@[simp] theorem countSlot_loopCount (k : Fin 10) (s : State) :
    (countSlot k s).store.loopCount = s.store.loopCount := rfl

theorem countSlot_slot {k : Byte} (hk : k.toNat < 10) (s : State) :
    (countSlot ⟨k.toNat, hk⟩ s).store.slots[k.toNat] = (s.store.slots[k.toNat]).next :=
  Vector.getElem_set_self hk

section LoopDispatch

variable {a k : Byte} {s : State}

theorem exec_loop_badSlot (h : s.store.loopCount.toNat ≤ k.toNat) :
    exec (.loop a k) s = .next (raiseFault .badSlot s) :=
  if_pos h

theorem exec_loop_allocated (hk : k.toNat < 10) (h : k.toNat < s.store.loopCount.toNat) :
    exec (.loop a k) s = .next (complete (if (s.store.slots[k.toNat]).jumps
      then jump a (countSlot ⟨k.toNat, hk⟩ s) else countSlot ⟨k.toNat, hk⟩ s)) :=
  (if_neg (Nat.not_le.2 h)).trans (dif_pos hk)

theorem exec_loop_jumps (hk : k.toNat < 10) (h : k.toNat < s.store.loopCount.toNat)
    (hn : (s.store.slots[k.toNat]).activate.cur ≠ 0#16) :
    exec (.loop a k) s = .next (complete (jump a (countSlot ⟨k.toNat, hk⟩ s))) := by
  rw [exec_loop_allocated hk h, if_pos ((LoopSlot.jumps_iff _).2 hn)]

theorem exec_loop_falls (hk : k.toNat < 10) (h : k.toNat < s.store.loopCount.toNat)
    (hn : (s.store.slots[k.toNat]).activate.cur = 0#16) :
    exec (.loop a k) s = .next (complete (countSlot ⟨k.toNat, hk⟩ s)) := by
  rw [exec_loop_allocated hk h, if_neg fun hj => (LoopSlot.jumps_iff _).1 hj hn]

end LoopDispatch

/-- Settles O19: the count is the activated slot's; it decides between the jump and the fall-through. -/
theorem loopCountsItsSlot : Obligations.LoopCountsItsSlot := by
  refine fun t k s => ⟨exec_loop_badSlot, fun hk hl => ?_⟩
  simp only [← LoopSlot.activate_cur]
  refine ⟨fun hn => ?jumps, fun hn => ?falls⟩
  case jumps =>
    rw [exec_loop_jumps hk hl hn, ← LoopSlot.next_of_ne hn]
    rfl
  case falls =>
    rw [exec_loop_falls hk hl hn, ← LoopSlot.next_of_zero hn]
    rfl

/-! ### How often a Loop jumps (R194) -/

/-- A run is before a dispatch of the Loop on slot k, which then jumps r times before it falls through. -/
structure JumpsLeft (k : Byte) (hk : k.toNat < 10) (r : Nat) (s : State) : Prop where
  in_run : s.seq.ctx = .run
  allocated : k.toNat < s.store.loopCount.toNat
  count : (s.store.slots[k.toNat]).activate.cur.toNat = r

/-- The Loop on slot k has just jumped to a. -/
def HasJumped (a k : Byte) (hk : k.toNat < 10) (s : State) : Prop :=
  s.seq.pc = pcOf a ∧ (s.store.slots[k.toNat]).act = true

/-- What the loop's body does before each dispatch leaves the slot, LOOP_COUNT and CTX alone. -/
def BodyKeeps (k : Byte) (hk : k.toNat < 10) (body : Nat → State → State) : Prop :=
  ∀ m u, (body m u).store.slots[k.toNat] = u.store.slots[k.toNat] ∧
    (body m u).store.loopCount = u.store.loopCount ∧ (body m u).seq.ctx = u.seq.ctx

section LoopVisits

variable {a k : Byte} {hk : k.toNat < 10} {s : State} {body : Nat → State → State} {r : Nat}

theorem JumpsLeft.afterBody (h : JumpsLeft k hk r s) (hb : BodyKeeps k hk body) (m : Nat) :
    JumpsLeft k hk r (body m s) := by
  obtain ⟨hslot, hcount, hctx⟩ := hb m s
  exact ⟨hctx.trans h.in_run, hcount ▸ h.allocated, hslot ▸ h.count⟩

/-- With a jump left the dispatch jumps, and one fewer is left. -/
theorem JumpsLeft.exec_succ (h : JumpsLeft k hk (r + 1) s) :
    ∃ t, exec (.loop a k) s = .next t ∧ JumpsLeft k hk r t ∧ HasJumped a k hk t := by
  obtain ⟨hctx, hl, hr⟩ := h
  have hn : (s.store.slots[k.toNat]).activate.cur ≠ 0#16 := by bv_omega
  refine ⟨_, exec_loop_jumps hk hl hn, ?_⟩
  have hslot : (complete (jump a (countSlot ⟨k.toNat, hk⟩ s))).store.slots[k.toNat] =
      { init := (s.store.slots[k.toNat]).init, cur := (s.store.slots[k.toNat]).activate.cur - 1#16, act := true } := by
    rw [complete_store, jump_store, countSlot_slot, LoopSlot.next_of_ne hn]
  refine ⟨⟨by simp, by simpa using hl, ?_⟩, by simp, by rw [hslot]⟩
  rw [hslot, LoopSlot.activate_cur, if_pos rfl]
  bv_omega

/-- With no jump left the dispatch falls through. -/
theorem JumpsLeft.exec_zero (h : JumpsLeft k hk 0 s) :
    ∃ t, exec (.loop a k) s = .next t ∧ t.seq.pc = s.seq.pc ∧ (t.store.slots[k.toNat]).act = false := by
  have hn : (s.store.slots[k.toNat]).activate.cur = 0#16 := BitVec.eq_of_toNat_eq h.count
  refine ⟨_, exec_loop_falls hk h.allocated hn, by simp, ?_⟩
  rw [complete_store, countSlot_slot, LoopSlot.next_of_zero hn]

theorem loopVisits_succ {m : Nat} {u : State} (h : loopVisits a k body m s = .next u) :
    loopVisits a k body (m + 1) s = exec (.loop a k) (body m u) := by
  rw [loopVisits, h]
  rfl

/-- With n jumps left, the first n dispatches all jump and use one each. -/
theorem JumpsLeft.visits {n : Nat} (h : JumpsLeft k hk n s) (hb : BodyKeeps k hk body) (m : Nat) (hm : m ≤ n) :
    ∃ t, loopVisits a k body m s = .next t ∧ JumpsLeft k hk (n - m) t ∧ (0 < m → HasJumped a k hk t) := by
  induction m with
  | zero => exact ⟨s, rfl, h, fun h0 => absurd h0 (Nat.lt_irrefl 0)⟩
  | succ m ih =>
    obtain ⟨u, hu, hleft, _⟩ := ih (Nat.le_of_succ_le hm)
    have hsucc : n - m = n - (m + 1) + 1 := by omega
    obtain ⟨t, ht, hleft', hjump⟩ := ((hsucc ▸ hleft).afterBody hb m).exec_succ (a := a)
    exact ⟨t, (loopVisits_succ hu).trans ht, hleft', fun _ => hjump⟩

end LoopVisits

/-- Settles O60: an inactive slot has its initial count of jumps left, each dispatch up to the N-th uses one, and the
next one finds none. -/
theorem loopJumpsExactlyNTimes : Obligations.LoopJumpsExactlyNTimes := by
  intro a k s body hk hl hctx hact hb n
  have hstart : JumpsLeft k hk n s := ⟨hctx, hl, by rw [LoopSlot.activate_cur, hact]; rfl⟩
  refine ⟨fun m hm hmn => ?jumps, ?falls⟩
  case jumps =>
    obtain ⟨t, ht, hleft, hjump⟩ := hstart.visits (a := a) hb m hmn
    obtain ⟨hpc, hslot⟩ := hjump hm
    have hcount := hleft.count
    rw [LoopSlot.activate_cur, if_pos hslot] at hcount
    exact ⟨t, ht, hpc, hslot, hcount⟩
  case falls =>
    obtain ⟨u, hu, hleft, _⟩ := hstart.visits (a := a) hb n (Nat.le_refl n)
    have hnone : JumpsLeft k hk 0 u := Nat.sub_self n ▸ hleft
    obtain ⟨t, ht, hpc, hslot⟩ := (hnone.afterBody hb n).exec_zero (a := a)
    exact ⟨u, t, hu, ht, hpc, hslot⟩

/-! ### The CG poll (R190) -/

section CgPoll

variable {s : State} {b : Byte}

theorem poll_cg (h : s.seq.opw = .cg) : poll s = pollCg s := by
  rw [poll, h]

theorem pollCg_cancelled (hc : s.seq.cancel = true) : pollCg s = .next (complete (setWatch true s)) :=
  if_pos hc

theorem pollCg_waits (hc : s.seq.cancel = false) (hq : s.env.rxq = []) : pollCg s = .next s := by
  simp [pollCg, hc, hq]

theorem pollCg_takes {bs : List Byte} (hc : s.seq.cancel = false) (hq : s.env.rxq = b :: bs) :
    pollCg s = .next (charGotoByte b (setWatch true (s.withEnv { s.env with rxq := bs }))) := by
  rw [← dropRx_of_cons hq]
  simp [pollCg, hc, hq]

theorem charGotoByte_quit (hc : s.seq.cancel = false) (hb : b = s.cfg.quitByte) :
    charGotoByte b s = complete (s.withSeq { s.seq with cancel := true }) := by
  rw [charGotoByte, if_pos hb, noteQuit_of_not_cancelled hc, decide_eq_true hb]

theorem charGotoByte_badTarget (hb : b ≠ s.cfg.quitByte) (ho : s.cfg.cgOor = .fault)
    (hr : s.store.stepCount.toNat ≤ b.toNat) : charGotoByte b s = raiseFault .badTarget s :=
  (if_neg hb).trans (if_pos (by simp [outOfRange, ho, hr]))

theorem charGotoByte_jumps (hb : b ≠ s.cfg.quitByte)
    (h : s.cfg.cgOor = .endPass ∨ b.toNat < s.store.stepCount.toNat) :
    charGotoByte b s = complete (jump b s) := by
  refine (if_neg hb).trans (if_neg ?_)
  rcases h with ho | hr
  · simp [ho]
  · simp [outOfRange, hr]

end CgPoll

/-- Settles O27: the poll by CANCEL and RXQ; the byte taken is the quit byte, no stored step, or the next PC. -/
theorem charGotoJumpsToTheByte : Obligations.CharGotoJumpsToTheByte := by
  refine fun s hw => ⟨fun hc => ?cancelled, fun hc hq => ?waits, fun b bs hc hq => ?taken⟩
  case cancelled => exact (poll_cg hw).trans (pollCg_cancelled hc)
  case waits => exact (poll_cg hw).trans (pollCg_waits hc hq)
  case taken =>
    have hpoll := (poll_cg hw).trans (pollCg_takes hc hq)
    exact ⟨fun hb => hpoll.trans (next_inj.2 (charGotoByte_quit hc hb)),
      fun hb ho hr => hpoll.trans (next_inj.2 (charGotoByte_badTarget hb ho hr)),
      fun hb h => hpoll.trans (next_inj.2 (charGotoByte_jumps hb h))⟩

/-! ### Goto and Noop (R192, R193) -/

/-- Settles O20: each dispatch is `complete`, Goto's after `jump`; in an immediate step `complete` reports OK. -/
theorem gotoJumpsAndNoopOnlyCompletes : Obligations.GotoJumpsAndNoopOnlyCompletes := by
  refine fun s => ⟨fun _ => rfl, rfl, fun hctx => ⟨complete s, rfl, ?_⟩⟩
  rw [complete_imm hctx]
  rfl

end Sys2Proof.Machine
end

section
/-! PROOFS. The reset input and the fault state (70_reset_and_hazards.md R240, R241; 60_exceptions.md R201, R209;
40_engine.md R127): what a fault comes from, that none comes where the store is fed through the port, and that one
lasts. -/

namespace Sys2Proof.Machine

/-! ### What a fault comes from (R209) -/

/-- What the FSM meets when a fault is raised, one case for each kind of fault. -/
inductive FaultCause (s : State) : Prop
  | illegalTag (r : Rec) (tag : Byte) (hr : Fetches s r) (hd : decode r = .reserved tag)
  | badSlot (r : Rec) (a k : Byte) (hr : Fetches s r) (hd : decode r = .instr (.loop a k))
      (hk : s.store.loopCount.toNat ≤ k.toNat)
  | badTarget (hw : s.seq.opw = .cg) (hc : s.cfg.cgOor = .fault)

section FaultCause

variable {s t : State}

theorem complete_not_fault (s : State) : (complete s).seq.fsm ≠ .fault := by
  cases h : s.seq.ctx <;> simp [h]

/-- Of the dispatch parts, only a Loop's on a slot past LOOP_COUNT raises a fault (R191). -/
theorem ExecEnd.fault_cause {i : Instr} (h : ExecEnd i s t) (ht : t.seq.fsm = .fault) :
    ∃ a k, i = .loop a k ∧ s.store.loopCount.toNat ≤ k.toNat := by
  cases h with
  | badSlot a k hi hs => exact ⟨a, k, hi, hs⟩
  | levelWait | msDelay | usDelay | output | steadyRead | conversion | byteWait => exact (nomatch ht)
  | _ => exact absurd ht (complete_not_fault _)

/-- Of the polls, only CharGoto's raises a fault, and only with CG_OOR = FAULT (R190). -/
theorem PollEnd.fault_cause (h : PollEnd s t) (hf : s.seq.fsm ≠ .fault) (ht : t.seq.fsm = .fault) :
    s.seq.opw = .cg ∧ s.cfg.cgOor = .fault := by
  cases h with
  | badTarget b bs hw _ hc => exact ⟨hw, hc⟩
  | stay | settle | unsettled | rearmed | sending => exact absurd ht hf
  | steady | converted => exact (nomatch ht)
  | _ => exact absurd ht (complete_not_fault _)

theorem FsmEnd.fault_cause (h : FsmEnd s t) (hf : s.seq.fsm ≠ .fault) (ht : t.seq.fsm = .fault) :
    FaultCause s := by
  cases h with
  | immediate r n i t _ _ _ hs hd he =>
    obtain ⟨a, k, hi, _⟩ := he.fault_cause ht
    exact absurd hi ((not_jump_of_not_skipped hs hd).2.1 a k)
  | fetched r i t hr hd he =>
    obtain ⟨a, k, rfl, hk⟩ := he.fault_cause ht
    exact .badSlot r a k hr hd hk
  | illegal r tag hr hd => exact .illegalTag r tag hr hd
  | polled t _ he =>
    obtain ⟨hw, hc⟩ := he.fault_cause hf ht
    exact .badTarget hw hc
  | skipped | runStart | cancelRun | lastPass => exact (nomatch ht)
  | _ => exact absurd ht hf

end FaultCause

/-! ### A block fed through the port (R53, R201) -/

/-- A fetched step is a defined opcode whose slot is allocated (R53). -/
theorem StoreOk.fetched {s : State} {r : Rec} (h : StoreOk s.store) (hr : Fetches s r) :
    ∃ j, decode r = .instr j ∧ ∀ a k, j = .loop a k → k.toNat < s.store.loopCount.toNat := by
  obtain ⟨_, _, hp, hr⟩ := hr
  obtain ⟨r', j, hr', hd, hk⟩ := h.steps_defined _ hp
  cases hr'.symm.trans hr
  exact ⟨j, hd, hk⟩

/-- The stored steps cause no fault, and CG_OOR = END_PASS leaves no other cause. -/
theorem StoreOk.no_fault_cause {s : State} (h : StoreOk s.store) (hc : s.cfg.cgOor = .endPass) :
    ¬ FaultCause s := by
  intro hf
  cases hf with
  | illegalTag r tag hr hd =>
    obtain ⟨j, hj, _⟩ := h.fetched hr
    exact (nomatch hd.symm.trans hj)
  | badSlot r a k hr hd hk =>
    obtain ⟨j, hj, hlt⟩ := h.fetched hr
    cases hd.symm.trans hj
    exact absurd (hlt a k rfl) (Nat.not_lt.2 hk)
  | badTarget _ hf => exact (nomatch hc.symm.trans hf)

/-- Settles O59: only an FSM step raises a fault, and each of its causes is ruled out by the store's part of the
invariant or by CG_OOR. -/
theorem portFedBlockNeverFaults : Obligations.PortFedBlockNeverFaults := by
  intro s t hs hc hf hstep
  obtain ⟨d, _, he⟩ | ⟨_, rfl⟩ | ⟨_, rfl⟩ | he := step_end hstep
  · exact fun ht => StoreOk.no_fault_cause (s := s.withSched d) hs.store hc (he.fault_cause hf ht)
  · simpa [oweWhileWaiting, tick_seq] using hf
  · exact fun ht => (nomatch ht)
  · rw [he.seq]
    exact hf

/-! ### A fault lasts (R127) -/

/-- Without the watch a tick writes no register of the sequencer (R139). -/
theorem tick_seq_of_not_watching {s : State} (h : s.seq.watchQuit = false) : (tick s).seq = s.seq := by
  have hc : (s.seq.cancel || (s.timer.serviceDue s.cfg.svcPeriod && s.seq.watchQuit &&
      decide (s.cfg.quitByte ∈ s.env.rxq))) = s.seq.cancel := by simp [h]
  rw [tick_seq, hc]

/-- A tick makes no output event but a service strobe (R132, R138). -/
theorem tick_trace_cases (s : State) :
    (tick s).env.trace = s.env.trace ∨ (tick s).env.trace = s.env.trace ++ [.service] := by
  cases hd : s.timer.serviceDue s.cfg.svcPeriod with
  | false => exact .inl (by rw [tick_env_quiet hd])
  | true => exact .inr (by rw [tick_env_service hd])

/-- Settles O4: in FAULT the FSM takes no step, a tick finds the watch off, and the environment has its own part. -/
theorem faultStopsTheSequencer : Obligations.FaultStopsTheSequencer := by
  refine ⟨fun _ _ => rfl, fun s t hf hw hr hstep => ?_⟩
  obtain ⟨d, _, _, hfsm⟩ | ⟨hm, _, happly⟩ := step_cases hstep
  · cases next_inj.1 ((fsmTransition_fault (s := s.withSched d) hf).symm.trans hfsm)
    exact ⟨rfl, rfl, .inl rfl⟩
  by_cases ht : nextMove s = .tick
  · rw [ht] at happly
    cases next_inj.1 happly
    exact ⟨tick_seq_of_not_watching (s := consume s) hw, tick_store _, tick_trace_cases (consume s)⟩
  · obtain ⟨hreset, _⟩ | he := envMove_end hm ht happly
    · exact absurd hreset hr
    · exact ⟨he.seq, he.store, .inl (envMove_env hm ht happly).1⟩

/-! ### The reset input (R240) -/

/-- Settles O3: the reset input is no tick, so the step is `blockReset`, which writes every register's reset value. -/
theorem resetInputRestoresTheBlock : Obligations.ResetInputRestoresTheBlock :=
  fun s h => ⟨blockReset (consume s), step_of_nextMove h (by simp), rfl, rfl, rfl, rfl, rfl⟩

end Sys2Proof.Machine
end

section
/-! PROOFS. Cancellation (60_exceptions.md R206): the six waits and the head step that act on CANCEL, and the three
waits whose polls do the same whatever CANCEL holds. -/

namespace Sys2Proof.Machine

/-- The state with this value of CANCEL. -/
def setCancel (c : Bool) (s : State) : State := s.withSeq { s.seq with cancel := c }

section SetCancel

variable {s t : State} (c : Bool)

theorem complete_setCancel (s : State) : complete (setCancel c s) = setCancel c (complete s) := by
  cases h : s.seq.ctx
  · rw [complete_run h, complete_run (s := setCancel c s) h]
    rfl
  · rw [complete_imm h, complete_imm (s := setCancel c s) h]
    rfl

theorem pollDus_setCancel (h : pollDus s = .next t) : pollDus (setCancel c s) = .next (setCancel c t) := by
  cases hd : s.timer.osDone with
  | false =>
    cases next_inj.1 ((pollDus_waits hd).symm.trans h)
    exact pollDus_waits hd
  | true =>
    cases next_inj.1 ((pollDus_matched hd).symm.trans h)
    rw [← complete_setCancel]
    exact pollDus_matched (s := setCancel c s) hd

theorem pollAdc_setCancel (h : pollAdc s = .next t) : pollAdc (setCancel c s) = .next (setCancel c t) := by
  by_cases hd : ∃ r, s.env.adc = .done r
  · obtain ⟨r, hd⟩ := hd
    cases next_inj.1 ((pollAdc_done hd).symm.trans h)
    exact pollAdc_done (s := setCancel c s) hd
  · have hd' := not_exists.1 hd
    cases next_inj.1 ((pollAdc_of_not_done hd').symm.trans h)
    exact pollAdc_of_not_done (s := setCancel c s) hd'

theorem pollTx_setCancel (h : pollTx s = .next t) : pollTx (setCancel c s) = .next (setCancel c t) := by
  cases hq : s.seq.outq with
  | nil => simp [pollTx, hq] at h
  | cons b bs =>
    cases hr : s.env.txReady with
    | false =>
      cases next_inj.1 ((pollTx_not_ready hq hr).symm.trans h)
      exact pollTx_not_ready (s := setCancel c s) hq hr
    | true =>
      by_cases hb : bs = []
      · subst hb
        cases next_inj.1 ((pollTx_last hq hr).symm.trans h)
        rw [← complete_setCancel]
        exact pollTx_last (s := setCancel c s) hq hr
      · cases next_inj.1 ((pollTx_more hq hr hb).symm.trans h)
        exact pollTx_more (s := setCancel c s) hq hr hb

end SetCancel

/-- Settles O28: with CANCEL set the first branch of each of the seven is taken; DUS, ADC and TX branch on OS_DONE, the
converter and the queue, none of which is CANCEL. -/
theorem onlyNamedWaitsTestCancel : Obligations.OnlyNamedWaitsTestCancel := by
  refine ⟨fun s hc => ⟨?plain, ?window, ?byte, headStep_cancelled hc⟩, fun s t c hw h => ?blind⟩
  case plain =>
    rintro (hw | hw)
    · exact (poll_level hw).trans (if_pos hc)
    · exact (poll_dms hw).trans (pollDms_ended (.inl hc))
  case window =>
    rintro (hw | hw)
    · exact (poll_settle hw).trans (if_pos hc)
    · exact (poll_rsettle hw).trans (if_pos hc)
  case byte =>
    rintro (hw | hw)
    · exact (poll_cr hw).trans (pollCr_cancelled hc)
    · exact (poll_cg hw).trans (pollCg_cancelled hc)
  case blind =>
    obtain hw | hw | hw := hw
    · exact (poll_dus (s := setCancel c s) hw).trans (pollDus_setCancel c ((poll_dus hw).symm.trans h))
    · exact (poll_adc (s := setCancel c s) hw).trans (pollAdc_setCancel c ((poll_adc hw).symm.trans h))
    · exact (poll_tx (s := setCancel c s) hw).trans (pollTx_setCancel c ((poll_tx hw).symm.trans h))

end Sys2Proof.Machine
end

section
/-! PROOFS. Refusals and responses (60_exceptions.md R202–R204): a refused SUBMIT changes the trace alone, and a step
makes one response exactly where it ends a command. -/

namespace Sys2Proof.Machine

/-! ### Refusals (R111, R113, R202) -/

theorem stepsFull_iff {m : Store} : stepsFull m = true ↔ 256 ≤ m.stepCount.toNat := decide_eq_true_iff

theorem slotsFull_iff {m : Store} : slotsFull m = true ↔ 10 ≤ m.loopCount.toNat := decide_eq_true_iff

/-- Without room for the step, or for a Loop's slot, the append leaves the store as it is (R113). -/
theorem appendStore_of_no_room {r : Rec} {m : Store}
    (h : 256 ≤ m.stepCount.toNat ∨ (recTag r = 0x14#8 ∧ 10 ≤ m.loopCount.toNat)) (count : Word16) :
    appendStore r count m = (.noRoom, m) := by
  rw [← stepsFull_iff, ← isLoopRec_iff, ← slotsFull_iff, ← Bool.and_eq_true_iff] at h
  unfold appendStore
  split
  next => rfl
  next hs => exact if_pos (h.resolve_left hs)

/-- Settles O31: a reserved tag is refused before the execute mode is looked at, and an append without room keeps the
store. -/
theorem refusedCommandsAreInert : Obligations.RefusedCommandsAreInert := by
  refine fun r count s => ⟨fun ht => acceptSubmit_of_reserved ht count s, fun ht hm hfull => ?_⟩
  have hroom : 256 ≤ s.store.stepCount.toNat ∨ (recTag r = 0x14#8 ∧ 10 ≤ s.store.loopCount.toNat) := by
    obtain h | ⟨hl, h⟩ := hfull
    · exact .inl (by simp [h])
    · exact .inr ⟨hl, by simp [h]⟩
  calc accept (.submit r count) s
    _ = .next (append r count s) := acceptSubmit_recording ht hm count
    _ = .next (respond .noRoom s) := by rw [append, appendStore_of_no_room hroom]; rfl

/-! ### One response or none -/

/-- From s to t one response is made where p holds, and none where it does not. -/
def RespondsIff (p : Prop) (s t : State) : Prop :=
  (p → responses t.env.trace = responses s.env.trace + 1) ∧ (¬ p → responses t.env.trace = responses s.env.trace)

/-- Of an FSM at work, IDLE afterwards is the end of the command, and has its response (R204). -/
abbrev RespondsInIdle (s t : State) : Prop := RespondsIff (t.seq.fsm = .idle) s t

@[simp] theorem responses_append (es es' : List OutEvent) : responses (es ++ es') = responses es + responses es' :=
  List.countP_append

theorem responses_of_response (r : Response) : responses [.resp r] = 1 := rfl

theorem responses_of_other {e : OutEvent} (h : e.isResponse = false) : responses [e] = 0 := by
  simp [responses, h]

section Responses

variable {p : Prop} {s t : State}

theorem respondsIff_one (hp : p) (h : responses t.env.trace = responses s.env.trace + 1) : RespondsIff p s t :=
  ⟨fun _ => h, fun hn => absurd hp hn⟩

theorem respondsIff_none (hp : ¬ p) (h : responses t.env.trace = responses s.env.trace) : RespondsIff p s t :=
  ⟨fun h0 => absurd h0 hp, fun _ => h⟩

theorem RespondsIff.congr {q : Prop} (h : RespondsIff p s t) (hpq : p ↔ q) : RespondsIff q s t := propext hpq ▸ h

end Responses

section RespondsInIdle

variable {s t u : State}

theorem respondsInIdle_respond (hf : u.seq.fsm = .idle) (h : responses u.env.trace = responses s.env.trace)
    (r : Response) : RespondsInIdle s (respond r u) :=
  respondsIff_one hf (by rw [respond_env, responses_append, responses_of_response, h])

theorem respondsInIdle_complete (h : responses u.env.trace = responses s.env.trace) :
    RespondsInIdle s (complete u) := by
  cases hc : u.seq.ctx with
  | run => exact respondsIff_none (by simp [hc]) (by simp [hc, h])
  | imm =>
    rw [complete_imm hc]
    refine respondsInIdle_respond rfl ?_ .ok
    exact h

/-! ### The parts of an FSM step (R110–R122) -/

theorem ExecEnd.respondsInIdle {i : Instr} (h : ExecEnd i s t) : RespondsInIdle s t := by
  cases h with
  | event e _ he => exact respondsInIdle_complete (by simp [responses_of_other he])
  | conversion p => exact respondsIff_none (by simp) (responses_append _ [.adcStart p])
  | levelWait | msDelay | usDelay | output | steadyRead | byteWait | badSlot => exact respondsIff_none (by simp) rfl
  | _ => exact respondsInIdle_complete rfl

theorem PollEnd.respondsInIdle (h : PollEnd s t) (hf : s.seq.fsm = .opWait) : RespondsInIdle s t := by
  cases h with
  | stay | settle | unsettled | rearmed => exact respondsIff_none (by simp [hf]) rfl
  | steady | badTarget | converted => exact respondsIff_none (by simp) rfl
  | sending b => exact respondsIff_none (by simp [hf]) (responses_append _ [.txPush b])
  | sent b => exact respondsInIdle_complete (responses_append _ [.txPush b])
  | _ => exact respondsInIdle_complete rfl

theorem dispatch_respondsInIdle {r : Rec} (h : dispatch r s = .next t) : RespondsInIdle s t := by
  obtain ⟨i, _, he⟩ | ⟨tag, _, rfl⟩ := dispatch_cases h
  · exact (exec_end he).respondsInIdle
  · exact respondsIff_none (by simp) rfl

theorem headStep_respondsInIdle (hf : s.seq.fsm = .runHead) (h : headStep s = .next t) : RespondsInIdle s t := by
  obtain ⟨_, rfl⟩ | ⟨_, _, r, _, hd⟩ | ⟨_, _, rfl⟩ := headStep_cases h
  · exact respondsInIdle_respond rfl rfl (.done true)
  · exact dispatch_respondsInIdle (s := loadFetched r s) hd
  · by_cases hi : s.seq.iter = 1#16
    · rw [endPass_last hi]
      exact respondsInIdle_respond rfl rfl (.done false)
    · rw [endPass_more hi]
      exact respondsIff_none (by simp [hf]) rfl

theorem immediate_respondsInIdle {r : Rec} (h : immediate r s = .next t) : RespondsInIdle s t := by
  by_cases hs : skippedTag (recTag r) = true
  · cases next_inj.1 ((immediate_of_skipped hs s).symm.trans h)
    exact respondsInIdle_respond rfl rfl .ok
  · exact dispatch_respondsInIdle (s := loadImmediate r s) ((immediate_of_not_skipped hs s).symm.trans h)

theorem acceptSubmit_respondsInIdle {r : Rec} {n : Word16} (hf : s.seq.fsm = .idle)
    (h : acceptSubmit r n s = .next t) : RespondsInIdle s t := by
  by_cases ht : 0x17 ≤ (recTag r).toNat
  · cases next_inj.1 ((acceptSubmit_of_reserved ht n s).symm.trans h)
    exact respondsInIdle_respond hf rfl .badOpcode
  · have ht' : (recTag r).toNat ≤ 0x16 := by omega
    cases hm : s.seq.execMode with
    | immediate => exact immediate_respondsInIdle ((acceptSubmit_immediate ht' hm n).symm.trans h)
    | recording =>
      cases next_inj.1 ((acceptSubmit_recording ht' hm n).symm.trans h)
      exact respondsInIdle_respond hf rfl _

theorem accept_respondsInIdle {c : Command} (hf : s.seq.fsm = .idle) (h : accept c s = .next t) :
    RespondsInIdle s t := by
  cases c with
  | program => cases next_inj.1 h; exact respondsInIdle_respond hf rfl .ok
  | finish => cases next_inj.1 h; exact respondsInIdle_respond hf rfl .ok
  | submit r n => exact acceptSubmit_respondsInIdle hf h
  | run n =>
    cases next_inj.1 h
    by_cases hn : n = 0#16
    · subst hn
      exact respondsInIdle_respond hf rfl (.done false)
    · rw [acceptRun_of_ne_zero hn]
      exact respondsIff_none (by simp) rfl

/-! ### A step of the machine (R204) -/

/-- The FSM has a command to work on: one offered in IDLE, a run, or an immediate step. -/
def HasCommand (s : State) : Prop :=
  (s.seq.fsm = .idle ∧ s.env.port ≠ none) ∨ s.seq.fsm = .runHead ∨ s.seq.fsm = .opWait

theorem fsmTransition_respondsInIdle (hw : HasCommand s) (h : fsmTransition s = .next t) : RespondsInIdle s t := by
  obtain ⟨hf, hp⟩ | hf | hf := hw
  · obtain ⟨c, hc⟩ := Option.ne_none_iff_exists'.1 hp
    rw [fsmTransition_idle hf, idleStep_of_offer hc] at h
    exact accept_respondsInIdle (s := takeOffer s) hf h
  · exact headStep_respondsInIdle hf ((fsmTransition_runHead hf).symm.trans h)
  · exact (poll_end ((fsmTransition_opWait hf).symm.trans h)).respondsInIdle hf

theorem fsmTransition_of_no_command (hw : ¬ HasCommand s) (h : fsmTransition s = .next t) : t = s := by
  simp only [HasCommand, not_or, not_and, not_not] at hw
  obtain ⟨hp, hr, ho⟩ := hw
  obtain ⟨hf, hi⟩ | ⟨hf, _⟩ | ⟨hf, _⟩ | ⟨_, ht⟩ := fsmTransition_cases h
  · exact (next_inj.1 ((idleStep_of_no_offer (hp hf)).symm.trans hi)).symm
  · exact absurd hf hr
  · exact absurd hf ho
  · exact ht

/-- A tick or a move of the environment but reset makes no response and leaves FSM as it is. -/
theorem otherMove_silent {m : Move} (hm : m ≠ .fsm) (hr : m ≠ .reset) (h : applyMove m s = .next t) :
    t.seq.fsm = s.seq.fsm ∧ responses t.env.trace = responses s.env.trace := by
  by_cases ht : m = .tick
  · subst ht
    cases next_inj.1 h
    refine ⟨by simp [oweWhileWaiting, tick_seq], ?_⟩
    obtain htr | htr := tick_trace_cases s
    · exact congrArg responses htr
    · exact (congrArg responses htr).trans (responses_append _ [.service])
  · obtain ⟨hreset, _⟩ | he := envMove_end hm ht h
    · exact absurd hreset hr
    · exact ⟨congrArg Seq.fsm he.seq, congrArg responses (envMove_env hm ht h).1⟩

end RespondsInIdle

/-- Settles O54: the FSM's step makes its response on the way back to IDLE if it has a command to work on and does
nothing otherwise; no other agent makes one. -/
theorem eachCommandGetsOneResponse : Obligations.EachCommandGetsOneResponse := by
  intro s t hstep hr accepts busy
  show RespondsIff ((accepts ∨ busy) ∧ t.seq.fsm = .idle) s t
  obtain ⟨d, _, hn, hfsm⟩ | ⟨hn, _, hm⟩ := step_cases hstep
  · have hcommand : accepts ∨ busy ↔ HasCommand (s.withSched d) := by
      refine or_congr_left ⟨And.right, fun hi => ⟨hn.resolve_right fun hp => ?_, hi⟩⟩
      obtain ⟨_, _, hwait⟩ := (pollFirst_iff s).1 hp
      exact (nomatch hi.1.symm.trans hwait)
    by_cases hw : HasCommand (s.withSched d)
    · exact (fsmTransition_respondsInIdle hw hfsm).congr (and_iff_right (hcommand.2 hw)).symm
    · cases fsmTransition_of_no_command hw hfsm
      exact respondsIff_none (fun h => hw (hcommand.1 h.1)) rfl
  · obtain ⟨hfsm, hresp⟩ := otherMove_silent hn hr hm
    refine respondsIff_none ?_ hresp
    rintro ⟨⟨hf, _⟩ | hb, ht⟩
    · exact hn hf
    · have hi : s.seq.fsm = .idle := hfsm.symm.trans ht
      simp [busy, hi] at hb

end Sys2Proof.Machine
end
